-- ==== Sys2Proof/Word.lean ====
section
/-! DEFINITION. The word types of the CORE: the widths the spec gives its fields and registers
(spec/00_scope.md R6, R7; spec/30_encoding.md R71, R73). All values are unsigned (R7). -/

namespace Sys2Proof

/-- A memory byte, a general register, a timer, an immediate `NN` (8 bits). -/
abbrev Byte := BitVec 8

/-- An instruction word (16 bits). -/
abbrev Word := BitVec 16

/-- A 12-bit address: `PC`, a stack entry, an operand `NNN`. -/
abbrev Addr := BitVec 12

/-- A 4-bit register index, an operand `X` or `Y`; every value names a register (R22). -/
abbrev Reg := BitVec 4

/-- A 4-bit key value or count `N`. -/
abbrev Nibble := BitVec 4

/-- The index register holds 16 bits (spec/10_state.md R27). -/
abbrev Index := BitVec 16

end Sys2Proof
end

