-- ==== Sys2Proof/Config.lean ====
section
/-! DEFINITION. The parameters of spec/00_scope.md R6: the fixed ones as numbers, the open ones as opaque
constants, which no proof can see through, so that a claim holds whatever they are. -/

namespace Sys2Proof

/-- The two readings of an ALU operand that is VF (spec/41_alu.md R121). -/
inductive FlagAlias
  /-- The result uses the operands as they were before the instruction. -/
  | snapshot
  /-- The result re-reads the operands after the flag write. -/
  | sequential
  deriving DecidableEq, Repr, Inhabited

namespace Config

/-- `MEM_SIZE` (R6). -/
@[simp] abbrev memSize : Nat := 4096

/-- `PROGRAM_LOAD_OFFSET` (R6). -/
@[simp] abbrev programLoadOffset : Nat := 0x200

/-- `MAX_PROGRAM_BYTES` = `MEM_SIZE - PROGRAM_LOAD_OFFSET` = 3584 (R6). -/
@[simp] abbrev maxProgramBytes : Nat := memSize - programLoadOffset

/-- `FONT_OFFSET` (R6). -/
@[simp] abbrev fontOffset : Nat := 0x050

/-- `FONT_BYTES`, 16 glyphs of 5 bytes (R6). -/
@[simp] abbrev fontBytes : Nat := 80

/-- The bytes of one glyph (spec/10_state.md R33). -/
@[simp] abbrev glyphBytes : Nat := 5

/-- `STACK_DEPTH` (R6). -/
@[simp] abbrev stackDepth : Nat := 4096

/-- `FB_WIDTH` (R6). -/
@[simp] abbrev fbWidth : Nat := 64

/-- `FB_HEIGHT` (R6). -/
@[simp] abbrev fbHeight : Nat := 32

/-- `SPRITE_WIDTH` (R6). -/
@[simp] abbrev spriteWidth : Nat := 8

/-- `FLAG_ALIAS` (R6, spec/41_alu.md R121, D5): OPEN, so a claim holds for both values. Log 2. Safe. -/
opaque flagAlias : FlagAlias

/-- `RESET_CLEARS_FB` (R6, spec/10_state.md R40, D13): OPEN. Log 3. Safe. -/
opaque resetClearsFb : Bool

/-- `RNG` (R6, spec/41_alu.md R133, D22): OPEN. `rng n` is the byte of the n-th draw, any of 0..255. Log 4. Safe. -/
opaque rng : Nat → Byte

/-- `FONT` (R6, spec/10_state.md R33, D31): the byte at `FONT_OFFSET + k`, for `k < 80`. A parameter: the source does
not give the bytes, so a claim that needs them takes `fontIsDefault` as a premise. Log 5. Safe. -/
opaque font : Nat → Byte

/-- The default glyphs of spec/10_state.md R33, digits 0 to 7 (general knowledge, G1; not the source's). -/
def defaultGlyphsLow : List Byte :=
  [0xF0, 0x90, 0x90, 0x90, 0xF0,
   0x20, 0x60, 0x20, 0x20, 0x70,
   0xF0, 0x10, 0xF0, 0x80, 0xF0,
   0xF0, 0x10, 0xF0, 0x10, 0xF0,
   0x90, 0x90, 0xF0, 0x10, 0x10,
   0xF0, 0x80, 0xF0, 0x10, 0xF0,
   0xF0, 0x80, 0xF0, 0x90, 0xF0,
   0xF0, 0x10, 0x20, 0x40, 0x40]

/-- The default glyphs of spec/10_state.md R33, digits 8 to F. -/
def defaultGlyphsHigh : List Byte :=
  [0xF0, 0x90, 0xF0, 0x90, 0xF0,
   0xF0, 0x90, 0xF0, 0x10, 0xF0,
   0xF0, 0x90, 0xF0, 0x90, 0x90,
   0xE0, 0x90, 0xE0, 0x90, 0xE0,
   0xF0, 0x80, 0x80, 0x80, 0xF0,
   0xE0, 0x90, 0x90, 0x90, 0xE0,
   0xF0, 0x80, 0xF0, 0x80, 0xF0,
   0xF0, 0x80, 0xF0, 0x80, 0x80]

/-- The default value of the parameter `FONT` (spec/10_state.md R33). -/
def defaultFont : List Byte := defaultGlyphsLow ++ defaultGlyphsHigh

/-- The premise a claim about glyph bytes must name (spec/10_state.md R33): `FONT` is its default value. -/
def fontIsDefault : Prop := ∀ k, k < fontBytes → font k = defaultFont.getD k 0

end Config
end Sys2Proof
end

