-- ==== Sys2Proof/Syntax.lean ====
section
/-! DEFINITION. The instructions: one constructor per row of spec/opcode_table.json, in the table's order.
Operands are the fields of spec/30_encoding.md R71 and R73, at their widths, so an operand outside its field
cannot be written down. -/

namespace Sys2Proof

inductive Instr
  /-- `0000` NOP (R102). -/
  | nop
  /-- `00E0` CLS (R150). -/
  | cls
  /-- `00EE` RET (R103). -/
  | ret
  /-- `1NNN` JP nnn (R104). -/
  | jp (nnn : Addr)
  /-- `2NNN` CALL nnn (R105). -/
  | call (nnn : Addr)
  /-- `3XNN` SE Vx, nn (R106). -/
  | seImm (x : Reg) (nn : Byte)
  /-- `4XNN` SNE Vx, nn (R107). -/
  | sneImm (x : Reg) (nn : Byte)
  /-- `5XY0` SE Vx, Vy (R108). -/
  | seReg (x y : Reg)
  /-- `6XNN` LD Vx, nn (R122). -/
  | ldImm (x : Reg) (nn : Byte)
  /-- `7XNN` ADD Vx, nn (R123). -/
  | addImm (x : Reg) (nn : Byte)
  /-- `8XY0` LD Vx, Vy (R124). -/
  | ldReg (x y : Reg)
  /-- `8XY1` OR Vx, Vy (R125). -/
  | orReg (x y : Reg)
  /-- `8XY2` AND Vx, Vy (R126). -/
  | andReg (x y : Reg)
  /-- `8XY3` XOR Vx, Vy (R127). -/
  | xorReg (x y : Reg)
  /-- `8XY4` ADD Vx, Vy (R128). -/
  | addReg (x y : Reg)
  /-- `8XY5` SUB Vx, Vy (R129). -/
  | sub (x y : Reg)
  /-- `8XY6` SHR Vx, Vy (R130). -/
  | shr (x y : Reg)
  /-- `8XY7` SUBN Vx, Vy (R131). -/
  | subn (x y : Reg)
  /-- `8XYE` SHL Vx, Vy (R132). -/
  | shl (x y : Reg)
  /-- `9XY0` SNE Vx, Vy (R109). -/
  | sneReg (x y : Reg)
  /-- `ANNN` LD I, nnn (R140). -/
  | ldI (nnn : Addr)
  /-- `BNNN` JP V0, nnn (R110). -/
  | jpV0 (nnn : Addr)
  /-- `CXNN` RND Vx, nn (R133). -/
  | rnd (x : Reg) (nn : Byte)
  /-- `DXYN` DRW Vx, Vy, n (R151). -/
  | drw (x y : Reg) (n : Nibble)
  /-- `EX9E` SKP Vx (R161). -/
  | skp (x : Reg)
  /-- `EXA1` SKNP Vx (R162). -/
  | sknp (x : Reg)
  /-- `FX07` LD Vx, DT (R163). -/
  | ldVxDt (x : Reg)
  /-- `FX0A` LD Vx, K (R164). -/
  | ldVxK (x : Reg)
  /-- `FX15` LD DT, Vx (R166). -/
  | ldDtVx (x : Reg)
  /-- `FX18` LD ST, Vx (R167). -/
  | ldStVx (x : Reg)
  /-- `FX1E` ADD I, Vx (R141). -/
  | addI (x : Reg)
  /-- `FX29` LD F, Vx (R142). -/
  | ldF (x : Reg)
  /-- `FX33` LD B, Vx (R143). -/
  | ldB (x : Reg)
  /-- `FX55` LD [I], Vx (R144). -/
  | ldMemVx (x : Reg)
  /-- `FX65` LD Vx, [I] (R145). -/
  | ldVxMem (x : Reg)
  deriving DecidableEq, Repr

end Sys2Proof
end

