-- ==== Sys2Proof/WellFormed.lean ====
section
/-! DEFINITION. What is well formed and what is not. An `Instr` is well formed by its type: each operand has its
field's width and every value of a field is legal (spec/30_encoding.md R73), so no check on `Instr` is left to make.
What can be ill formed is an instruction WORD (R76) and a program image (spec/70_reset_and_hazards.md R203); these
are their checks, written from the rules' own tables and not from the decoder. -/

namespace Sys2Proof

/-- The patterns of the illegal words, one per row of the table of spec/30_encoding.md R76. -/
inductive IllegalPattern
  /-- `0NNN` other than 0000, 00E0, 00EE. -/
  | p0NNN
  /-- `5XYN` with `N` not 0. -/
  | p5XYN
  /-- `8XYN` with `N` in 8, 9, A, B, C, D, F. -/
  | p8XYN
  /-- `9XYN` with `N` not 0. -/
  | p9XYN
  /-- `EXNN` with `NN` not in 9E, A1. -/
  | pEXNN
  /-- `FXNN` with `NN` not in 07, 0A, 15, 18, 1E, 29, 33, 55, 65. -/
  | pFXNN
  deriving DecidableEq, Repr

/-- The row of R76 that the word `w` falls under, by the row's own condition. -/
def IllegalPattern.covers (p : IllegalPattern) (w : Word) : Bool :=
  let t := w.toNat / 4096
  let nn := w.toNat % 256
  let n := w.toNat % 16
  match p with
  | .p0NNN => t == 0 && !([0x000, 0x0E0, 0x0EE].contains (w.toNat % 4096))
  | .p5XYN => t == 5 && n != 0
  | .p8XYN => t == 8 && [8, 9, 0xA, 0xB, 0xC, 0xD, 0xF].contains n
  | .p9XYN => t == 9 && n != 0
  | .pEXNN => t == 0xE && !([0x9E, 0xA1].contains nn)
  | .pFXNN => t == 0xF && !([0x07, 0x0A, 0x15, 0x18, 0x1E, 0x29, 0x33, 0x55, 0x65].contains nn)

/-- All rows of R76. -/
def illegalPatterns : List IllegalPattern := [.p0NNN, .p5XYN, .p8XYN, .p9XYN, .pEXNN, .pFXNN]

/-- A word is well formed when no row of R76 covers it. -/
def wellFormedWord (w : Word) : Bool := illegalPatterns.all fun p => !(p.covers w)

/-- A program image `load_program` accepts: at most 3584 bytes (spec/70_reset_and_hazards.md R203). -/
def wellFormedProgram (bytes : List Byte) : Bool := decide (bytes.length ≤ Config.maxProgramBytes)

end Sys2Proof
end

