-- ==== Sys2Proof/Decode.lean ====
section
/-! DEFINITION. The instruction decoder (spec/30_encoding.md R71, R74, R75), total on any bytes and rejecting by
name, and the encoder written from the same table. Decoding reads nothing but the word (R75). -/

namespace Sys2Proof

/-- Why bytes are no instruction. -/
inductive DecodeReject
  /-- Fewer than the two bytes of an instruction (R70). -/
  | truncated
  /-- The word is illegal, under this row of R76. -/
  | illegal (p : IllegalPattern)
  deriving DecidableEq, Repr

/-- `T`, the prefix: nibble 3 (R71). -/
def fieldT (w : Word) : Nibble := w.extractLsb' 12 4

/-- `X`: nibble 2 (R71). -/
def fieldX (w : Word) : Reg := w.extractLsb' 8 4

/-- `Y`: nibble 1 (R71). -/
def fieldY (w : Word) : Reg := w.extractLsb' 4 4

/-- `N`: nibble 0 (R71). -/
def fieldN (w : Word) : Nibble := w.extractLsb' 0 4

/-- `NN`: the low byte (R71). -/
def fieldNN (w : Word) : Byte := w.extractLsb' 0 8

/-- `NNN`: the low triplet (R71). -/
def fieldNNN (w : Word) : Addr := w.extractLsb' 0 12

/-- Prefix 0: selected on the whole word (R74, R75). -/
def decodeFixed (w : Word) : Except DecodeReject Instr :=
  if w = 0x0000#16 then .ok .nop
  else if w = 0x00E0#16 then .ok .cls
  else if w = 0x00EE#16 then .ok .ret
  else .error (.illegal .p0NNN)

/-- Prefix 8: selected on `N` (R75). -/
def decodeAlu (w : Word) : Except DecodeReject Instr :=
  match (fieldN w).toNat with
  | 0x0 => .ok (.ldReg (fieldX w) (fieldY w))
  | 0x1 => .ok (.orReg (fieldX w) (fieldY w))
  | 0x2 => .ok (.andReg (fieldX w) (fieldY w))
  | 0x3 => .ok (.xorReg (fieldX w) (fieldY w))
  | 0x4 => .ok (.addReg (fieldX w) (fieldY w))
  | 0x5 => .ok (.sub (fieldX w) (fieldY w))
  | 0x6 => .ok (.shr (fieldX w) (fieldY w))
  | 0x7 => .ok (.subn (fieldX w) (fieldY w))
  | 0xE => .ok (.shl (fieldX w) (fieldY w))
  | _ => .error (.illegal .p8XYN)

/-- Prefix E: selected on `NN` (R75). -/
def decodeKey (w : Word) : Except DecodeReject Instr :=
  match (fieldNN w).toNat with
  | 0x9E => .ok (.skp (fieldX w))
  | 0xA1 => .ok (.sknp (fieldX w))
  | _ => .error (.illegal .pEXNN)

/-- Prefix F: selected on `NN` (R75). -/
def decodeMisc (w : Word) : Except DecodeReject Instr :=
  match (fieldNN w).toNat with
  | 0x07 => .ok (.ldVxDt (fieldX w))
  | 0x0A => .ok (.ldVxK (fieldX w))
  | 0x15 => .ok (.ldDtVx (fieldX w))
  | 0x18 => .ok (.ldStVx (fieldX w))
  | 0x1E => .ok (.addI (fieldX w))
  | 0x29 => .ok (.ldF (fieldX w))
  | 0x33 => .ok (.ldB (fieldX w))
  | 0x55 => .ok (.ldMemVx (fieldX w))
  | 0x65 => .ok (.ldVxMem (fieldX w))
  | _ => .error (.illegal .pFXNN)

/-- The decode function, total over all 65536 words (R75). `T` has four bits, so the last arm is `T = 0xF`. -/
def decode (w : Word) : Except DecodeReject Instr :=
  match (fieldT w).toNat with
  | 0x0 => decodeFixed w
  | 0x1 => .ok (.jp (fieldNNN w))
  | 0x2 => .ok (.call (fieldNNN w))
  | 0x3 => .ok (.seImm (fieldX w) (fieldNN w))
  | 0x4 => .ok (.sneImm (fieldX w) (fieldNN w))
  | 0x5 => if fieldN w = 0#4 then .ok (.seReg (fieldX w) (fieldY w)) else .error (.illegal .p5XYN)
  | 0x6 => .ok (.ldImm (fieldX w) (fieldNN w))
  | 0x7 => .ok (.addImm (fieldX w) (fieldNN w))
  | 0x8 => decodeAlu w
  | 0x9 => if fieldN w = 0#4 then .ok (.sneReg (fieldX w) (fieldY w)) else .error (.illegal .p9XYN)
  | 0xA => .ok (.ldI (fieldNNN w))
  | 0xB => .ok (.jpV0 (fieldNNN w))
  | 0xC => .ok (.rnd (fieldX w) (fieldNN w))
  | 0xD => .ok (.drw (fieldX w) (fieldY w) (fieldN w))
  | 0xE => decodeKey w
  | _ => decodeMisc w

/-- The instruction word of two bytes in memory order: big-endian, the byte at the lower address holds nibbles 3 and 2
(spec/20_memory.md R54). -/
def wordOfBytes (hi lo : Byte) : Word := hi ++ lo

/-- The byte of `w` at the lower address (R54). -/
def highByte (w : Word) : Byte := w.extractLsb' 8 8

/-- The byte of `w` at the higher address (R54). -/
def lowByte (w : Word) : Byte := w.extractLsb' 0 8

/-- The decoder on a stream of bytes: one instruction and the bytes after it. Every instruction is two bytes (R70). -/
def decodeBytes : List Byte → Except DecodeReject (Instr × List Byte)
  | hi :: lo :: rest =>
    match decode (wordOfBytes hi lo) with
    | .ok i => .ok (i, rest)
    | .error e => .error e
  | _ => .error .truncated

/-- Format `TNNN` (R72). -/
def wordTNNN (t : Nibble) (nnn : Addr) : Word := t ++ nnn

/-- Format `TXNN` (R72). -/
def wordTXNN (t : Nibble) (x : Reg) (nn : Byte) : Word := t ++ x ++ nn

/-- Format `TXYN` (R72). -/
def wordTXYN (t : Nibble) (x y : Reg) (n : Nibble) : Word := t ++ x ++ y ++ n

/-- The word of an instruction: the rows of spec/opcode_table.json, fields laid out as R72 says. -/
def encode : Instr → Word
  | .nop => 0x0000#16
  | .cls => 0x00E0#16
  | .ret => 0x00EE#16
  | .jp nnn => wordTNNN 0x1#4 nnn
  | .call nnn => wordTNNN 0x2#4 nnn
  | .seImm x nn => wordTXNN 0x3#4 x nn
  | .sneImm x nn => wordTXNN 0x4#4 x nn
  | .seReg x y => wordTXYN 0x5#4 x y 0x0#4
  | .ldImm x nn => wordTXNN 0x6#4 x nn
  | .addImm x nn => wordTXNN 0x7#4 x nn
  | .ldReg x y => wordTXYN 0x8#4 x y 0x0#4
  | .orReg x y => wordTXYN 0x8#4 x y 0x1#4
  | .andReg x y => wordTXYN 0x8#4 x y 0x2#4
  | .xorReg x y => wordTXYN 0x8#4 x y 0x3#4
  | .addReg x y => wordTXYN 0x8#4 x y 0x4#4
  | .sub x y => wordTXYN 0x8#4 x y 0x5#4
  | .shr x y => wordTXYN 0x8#4 x y 0x6#4
  | .subn x y => wordTXYN 0x8#4 x y 0x7#4
  | .shl x y => wordTXYN 0x8#4 x y 0xE#4
  | .sneReg x y => wordTXYN 0x9#4 x y 0x0#4
  | .ldI nnn => wordTNNN 0xA#4 nnn
  | .jpV0 nnn => wordTNNN 0xB#4 nnn
  | .rnd x nn => wordTXNN 0xC#4 x nn
  | .drw x y n => wordTXYN 0xD#4 x y n
  | .skp x => wordTXNN 0xE#4 x 0x9E#8
  | .sknp x => wordTXNN 0xE#4 x 0xA1#8
  | .ldVxDt x => wordTXNN 0xF#4 x 0x07#8
  | .ldVxK x => wordTXNN 0xF#4 x 0x0A#8
  | .ldDtVx x => wordTXNN 0xF#4 x 0x15#8
  | .ldStVx x => wordTXNN 0xF#4 x 0x18#8
  | .addI x => wordTXNN 0xF#4 x 0x1E#8
  | .ldF x => wordTXNN 0xF#4 x 0x29#8
  | .ldB x => wordTXNN 0xF#4 x 0x33#8
  | .ldMemVx x => wordTXNN 0xF#4 x 0x55#8
  | .ldVxMem x => wordTXNN 0xF#4 x 0x65#8

/-- The bytes of an instruction in memory order (R54). -/
def encodeBytes (i : Instr) : List Byte := [highByte (encode i), lowByte (encode i)]

/-- The word an opcode-table row's bits stand for: `nbits` bits of `w`, every higher bit 0. -/
def tableWord (nbits w : Nat) : Word := BitVec.ofNat 16 (w % 2 ^ nbits)

/-- The instruction the decoder reads from the bytes of `tableWord nbits w`, laid out big-endian. -/
def decodeTableWord (nbits w : Nat) : Option Instr :=
  match decodeBytes [highByte (tableWord nbits w), lowByte (tableWord nbits w)] with
  | .ok (i, _) => some i
  | .error _ => none

end Sys2Proof
end

