-- ==== Sys2Proof/Machine/State.lean ====
section
/-! DEFINITION. The state of the CORE as plain data: the tuple of spec/10_state.md R20, one field per element, and
one field of the model's own (`draws`, log 4). -/

namespace Sys2Proof.Machine

/-- `MODE` (spec/10_state.md R35), with the unused encoding 3, which a host write can put there (spec/30_encoding.md R97).
DEDUCED (log 14), safe. -/
inductive Mode
  | init
  | running
  | waitForKey
  /-- The value 3: no mode of the CORE; a step in it raises UnimplementedState (R35, R97). -/
  | unused
  deriving DecidableEq, Repr

/-- The encoding of `MODE` (R35). -/
def Mode.code : Mode → BitVec 2
  | .init => 0
  | .running => 1
  | .waitForKey => 2
  | .unused => 3

/-- The fault kinds of spec/60_exceptions.md R170. -/
inductive FaultKind
  /-- A word of R76 was executed. -/
  | illegalInstruction
  /-- An access outside `[0, MEM_SIZE)`. -/
  | memoryAccess
  /-- A host accessor named a register outside `[0, 16)`; no instruction can (R25). -/
  | registerAccess
  /-- `00EE` with an empty stack. -/
  | stackUnderflow
  /-- A step in INIT or in the unused mode. -/
  | unimplementedState
  /-- A case the source leaves without behaviour: `FX1E`, `FX29`, `2NNN` at their bounds. -/
  | undefinedBehaviour
  deriving DecidableEq, Repr

/-- The code of a fault kind (R170). -/
def FaultKind.code : FaultKind → Nat
  | .illegalInstruction => 1
  | .memoryAccess => 2
  | .registerAccess => 3
  | .stackUnderflow => 4
  | .unimplementedState => 5
  | .undefinedBehaviour => 6

/-- A fault record `(kind, pc, word)` (spec/10_state.md R38). -/
structure FaultRecord where
  kind : FaultKind
  /-- `PC` when the faulting step began. -/
  pc : Addr
  /-- The instruction word, if the fetch completed. -/
  word : Option Word
  deriving DecidableEq, Repr

/-- `MEM` (R21): the bytes that differ from their reset contents, by rising address (`Memory.wf` in Machine/Ops.lean). -/
abbrev Memory := List Host.Cell

/-- `FB` (R34): 32 rows of 64 pixels; the pixel in column `x` of row `y` is bit `x` of row `y`. DESIGN CHOICE of
representation, safe (log 15). -/
abbrev Framebuffer := Vector (BitVec 64) 32

/-- The CORE state (R20). -/
structure State where
  /-- `MEM[0..4095]` (R21). -/
  mem : Memory
  /-- `V[0..15]` (R22); `V[0xF]` is VF (R23). -/
  v : Vector Byte 16
  /-- `PC` (R26). -/
  pc : Addr
  /-- `I` (R27). -/
  i : Index
  /-- `STACK` (R28), oldest entry first. -/
  stack : List Addr
  /-- `DT` (R31). -/
  dt : Byte
  /-- `ST` (R31). -/
  st : Byte
  /-- `FB[0..63][0..31]` (R34). -/
  fb : Framebuffer
  /-- `MODE` (R35). -/
  mode : Mode
  /-- `KEY` (R36): none is "no key". -/
  key : Option Nibble
  /-- `WAIT_REG` (R37). -/
  waitReg : Reg
  /-- `FAULT` (R38). -/
  fault : Option FaultRecord
  /-- The model's own: how many bytes have been drawn from the free source `Config.rng`. DESIGN CHOICE (log 4), safe. -/
  draws : Nat
  deriving DecidableEq, Repr

/-- Reasons for which the model itself would stop. There is none: every fault of the CORE is a NEXT state with `FAULT`
written and everything else kept (spec/60_exceptions.md R171), so no one raises a value of this type. Safe (log 1). -/
inductive Fault
  deriving DecidableEq, Repr

/-- Reasons for which the model gives an instruction no meaning. -/
inductive Refusal
  /-- Raised by an arm of `exec` whose instruction has no meaning yet; no arm is left so. Safe. -/
  | notModelled (mnemonic : String)
  deriving DecidableEq, Repr

/-- Every pixel 0. -/
def Framebuffer.clear : Framebuffer := Vector.replicate 32 0#64

/-- A newly created CORE: the power-on column of spec/10_state.md R40 (spec/70_reset_and_hazards.md R201). -/
def State.powerOn : State where
  mem := []
  v := Vector.replicate 16 0#8
  pc := 0
  i := 0
  stack := []
  dt := 0
  st := 0
  fb := Framebuffer.clear
  mode := .init
  key := none
  waitReg := 0
  fault := none
  draws := 0

/-- The machine right after `reset()` on a machine just powered on: the `reset()` column of R40, with the elements that
column leaves as they were (`KEY`, `FB`) at their power-on values. DEDUCED (log 6), unsafe: a key may be held. -/
def State.reset : State where
  mem := []
  v := Vector.replicate 16 0#8
  pc := 0
  i := 0
  stack := []
  dt := 0
  st := 0
  fb := Framebuffer.clear
  mode := .running
  key := none
  waitReg := 0
  fault := none
  draws := 0

end Sys2Proof.Machine
end

