-- ==== Sys2Proof/Machine/Ops.lean ====
section
/-! DEFINITION. The named operations every meaning is written over: memory (spec/20_memory.md R52), registers
(spec/10_state.md R22), the call stack (R29, R30), the framebuffer's write port (spec/43_display.md R152), raising a
fault (spec/60_exceptions.md R171) and the end of an instruction (spec/30_encoding.md R92, R93). -/

namespace Sys2Proof.Machine

/-- What an address nothing has written reads as: its contents after `reset()` (spec/20_memory.md R53,
spec/10_state.md R33, R40). The font bytes are the open parameter `FONT` (log 5); log 17, safe. -/
def Memory.resetByte (a : Nat) : Byte :=
  if Config.fontOffset ≤ a ∧ a < Config.fontOffset + Config.fontBytes then Config.font (a - Config.fontOffset) else 0

/-- The byte at `a`. -/
def Memory.read : Memory → Nat → Byte
  | [], a => Memory.resetByte a
  | (b, v) :: rest, a => if a = b then v else Memory.read rest a

/-- `MEM[a] <- v`, in canonical form: a byte equal to its reset contents is not listed. -/
def Memory.write : Memory → Nat → Byte → Memory
  | [], a, v => if v = Memory.resetByte a then [] else [(a, v)]
  | (b, w) :: rest, a, v =>
    if b < a then (b, w) :: Memory.write rest a v
    else if b = a then (if v = Memory.resetByte a then rest else (a, v) :: rest)
    else if v = Memory.resetByte a then (b, w) :: rest else (a, v) :: (b, w) :: rest

/-- The listed addresses rise strictly from `lo`, lie in memory, and no entry equals its reset contents. -/
def Memory.wfFrom (lo : Nat) : Memory → Bool
  | [] => true
  | (a, v) :: rest =>
    decide (lo ≤ a) && decide (a < Config.memSize) && decide (v ≠ Memory.resetByte a) && Memory.wfFrom (a + 1) rest

/-- The canonical form of memory. -/
def Memory.wf (m : Memory) : Bool := Memory.wfFrom 0 m

/-- Bytes written at ascending addresses from `a` (spec/20_memory.md R55). -/
def Memory.writeBytes (m : Memory) (a : Nat) : List Byte → Memory
  | [] => m
  | b :: bs => Memory.writeBytes (Memory.write m a b) (a + 1) bs

/-- The state with `MEM` replaced. -/
def State.setMem (s : State) (m : Memory) : State := { s with mem := m }

/-- The state with `STACK` replaced. -/
def State.setStack (s : State) (frames : List Addr) : State := { s with stack := frames }

/-- `DT <- v`. -/
def State.setDelayTimer (s : State) (v : Byte) : State := { s with dt := v }

/-- `ST <- v`. -/
def State.setSoundTimer (s : State) (v : Byte) : State := { s with st := v }

/-- `MODE <- m`. -/
def State.setMode (s : State) (m : Mode) : State := { s with mode := m }

/-- `WAIT_REG <- x`. -/
def State.setWaitReg (s : State) (x : Reg) : State := { s with waitReg := x }

/-- The byte of `MEM` at `a`, unchecked: how a claim reads memory. -/
def State.readByte (s : State) (a : Nat) : Byte := Memory.read s.mem a

/-- `MemRead(addr, 1)` (R52). -/
def State.memRead (s : State) (a : Nat) : Except FaultKind Byte :=
  if a ≥ Config.memSize then .error .memoryAccess else .ok (Memory.read s.mem a)

/-- `MemWrite(addr, 1, v)` (R52). -/
def State.memWrite (s : State) (a : Nat) (v : Byte) : Except FaultKind State :=
  if a ≥ Config.memSize then .error .memoryAccess else .ok (s.setMem (Memory.write s.mem a v))

/-- `V[x]` (spec/10_state.md R22): every 4-bit index names a register. -/
def State.readReg (s : State) (x : Reg) : Byte := s.v[x.toNat]'(x.isLt)

/-- `V[x] <- v` (R22). -/
def State.writeReg (s : State) (x : Reg) (v : Byte) : State := { s with v := s.v.set x.toNat v x.isLt }

/-- The index of VF (R23). -/
abbrev regVF : Reg := 0xF#4

/-- `VF <- f`: the flag write (R23). -/
def State.writeFlag (s : State) (f : Byte) : State := s.writeReg regVF f

/-- `Push(a)` (R29): the address check first, then the depth. -/
def State.push (s : State) (a : Nat) : Except FaultKind State :=
  if a ≥ Config.memSize then .error .memoryAccess
  else if s.stack.length ≥ Config.stackDepth then .error .undefinedBehaviour
  else .ok (s.setStack (s.stack ++ [BitVec.ofNat 12 a]))

/-- `Pop()` (R30): the last entry, and the stack without it. -/
def State.pop (s : State) : Except FaultKind (Addr × State) :=
  match s.stack.getLast? with
  | none => .error .stackUnderflow
  | some a => .ok (a, s.setStack s.stack.dropLast)

/-- `FB[x mod 64][y mod 32]` (spec/10_state.md R34). -/
def Framebuffer.pixel (fb : Framebuffer) (x y : Nat) : Bool :=
  (fb[y % 32]'(Nat.mod_lt y (by decide))).getLsbD (x % 64)

/-- `SetPixel(x, y, v)` (spec/43_display.md R152): the new framebuffer, and whether a set pixel became unset. -/
def Framebuffer.setPixel (fb : Framebuffer) (x y : Nat) (v : Bool) : Framebuffer × Bool :=
  let row := fb[y % 32]'(Nat.mod_lt y (by decide))
  let old := row.getLsbD (x % 64)
  (fb.set (y % 32) (if v then row ^^^ (1#64 <<< (x % 64)) else row) (Nat.mod_lt y (by decide)), old && v)

/-- `raise K` (spec/60_exceptions.md R171, R175): `FAULT` becomes `(K, PC, word)` and nothing else changes. This is the
whole of taking a fault; there is no vector, no saved register, no mode change, and no instruction returns from it
(R176): only `reset()` and `load_program` (Machine/HostOps.lean) clear it. -/
def State.raise (s : State) (k : FaultKind) (w : Option Word) : State := { s with fault := some ⟨k, s.pc, w⟩ }

/-- The next PC an instruction proposes unless its rule says otherwise (spec/30_encoding.md R92), as a number. -/
def State.seqPc (s : State) : Nat := s.pc.toNat + 2

/-- The next PC of a skip: `PC + 4` when the condition holds (spec/40_control.md R101). -/
def State.skipPc (s : State) (cond : Bool) : Nat := if cond then s.pc.toNat + 4 else s.seqPc

/-- `PC <- next_pc mod MEM_SIZE` (R92). -/
def State.commitPc (s : State) (nextPc : Nat) : State := { s with pc := BitVec.ofNat 12 (nextPc % Config.memSize) }

/-- The end of an instruction: its rule either raised, and then the state from before it gets the fault record and
nothing else (R171), or it left a state and a proposed next PC, which is committed (R92, R93). The record's word is the
instruction's own word (log 9, DEDUCED, safe: `decode` has one word for each instruction). -/
def State.conclude (s : State) (i : Instr) (r : Except FaultKind (State × Nat)) : Host.Outcome State Fault Refusal :=
  match r with
  | .error k => .next (s.raise k (some (encode i)))
  | .ok (t, nextPc) => .next (t.commitPc nextPc)

end Sys2Proof.Machine
end

