-- ==== Sys2Proof/Machine/Operands.lean ====
section
/-! DEFINITION. The operand forms of the instructions: ranges of registers and of memory bytes
(spec/42_index_memory.md R143 to R145), ALU operands that may be VF (spec/41_alu.md R121), the decimal split (R143),
the key comparison (spec/44_timers_keys.md R160). -/

namespace Sys2Proof.Machine

/-- `ReadOperands()` for one operand (R121): under SEQUENTIAL an operand that is VF is read again after the flag write and
so is the new flag; every other operand keeps its first value. (Laws/Ops.lean: this is re-reading `V[r]`.) -/
def rereadOperand (fa : FlagAlias) (r : Reg) (old flag : Byte) : Byte :=
  if r = regVF then
    match fa with
    | .snapshot => old
    | .sequential => flag
  else old

/-- `V[0], …, V[x]` (R144). -/
def State.regsUpTo (s : State) (x : Reg) : List Byte := s.v.toList.take (x.toNat + 1)

/-- `V[k] <- b0, V[k+1] <- b1, …` (R145). -/
def State.writeRegs (s : State) (k : Nat) : List Byte → State
  | [] => s
  | b :: bs => State.writeRegs (s.writeReg (BitVec.ofNat 4 k) b) (k + 1) bs

/-- `MemWrite` of each byte at ascending addresses from `a` (spec/20_memory.md R52, R55). -/
def State.storeBytes (s : State) (a : Nat) : List Byte → Except FaultKind State
  | [] => .ok s
  | b :: bs =>
    match s.memWrite a b with
    | .error k => .error k
    | .ok t => State.storeBytes t (a + 1) bs

/-- `MemRead` of `n` bytes at ascending addresses from `a` (R52, R55). -/
def State.loadBytes (s : State) (a : Nat) : Nat → Except FaultKind (List Byte)
  | 0 => .ok []
  | n + 1 =>
    match s.memRead a with
    | .error k => .error k
    | .ok b =>
      match State.loadBytes s (a + 1) n with
      | .error k => .error k
      | .ok bs => .ok (b :: bs)

/-- The hundreds, tens and ones digits of a byte (R143). -/
def decimalDigits (v : Byte) : List Byte :=
  [BitVec.ofNat 8 (v.toNat / 100), BitVec.ofNat 8 (v.toNat / 10 % 10), BitVec.ofNat 8 (v.toNat % 10)]

/-- `KEY = V[x]`, the whole byte compared (R160), for a key that is held. -/
def keyEquals (k : Nibble) (v : Byte) : Bool := k.toNat == v.toNat

/-- `I <- v`. -/
def State.setIndex (s : State) (v : Nat) : State := { s with i := BitVec.ofNat 16 v }

end Sys2Proof.Machine
end

