-- ==== Sys2Proof/Machine/Flags.lean ====
section
/-! DEFINITION. The flag computations and results of the ALU (spec/41_alu.md R120, R121, R128 to R132) and the collision
flag (spec/43_display.md R151). Operands are turned into numbers, computed exactly and narrowed at the end (R120). -/

namespace Sys2Proof.Machine

/-- A flag value: 1 or 0. -/
def flagByte (b : Bool) : Byte := if b then 1#8 else 0#8

/-- Carry out of bit 7: `a + b > 255` (R120, R128). -/
def carryFlag (a b : Byte) : Byte := flagByte (decide (a.toNat + b.toNat > 255))

/-- No borrow: `a >= b` (R120, R129; R131 with the operands exchanged). -/
def noBorrowFlag (a b : Byte) : Byte := flagByte (decide (a.toNat ≥ b.toNat))

/-- Bit 0 of the shifted register before the shift, whatever the count (R130). -/
def shrFlag (a : Byte) : Byte := flagByte (a.getLsbD 0)

/-- Bit 7 of the shifted register before the shift, whatever the count (R132). -/
def shlFlag (a : Byte) : Byte := flagByte (a.getLsbD 7)

/-- `(a + b) mod 256` (R120). -/
def addResult (a b : Byte) : Byte := BitVec.ofNat 8 (a.toNat + b.toNat)

/-- `(a - b) mod 256` (R120). -/
def subResult (a b : Byte) : Byte := BitVec.ofInt 8 ((a.toNat : Int) - (b.toNat : Int))

/-- `a >> b = a div 2^b`, so 0 for counts of 8 or more (R120, R130, D6; log 11). -/
def shrResult (a b : Byte) : Byte := BitVec.ofNat 8 (a.toNat / 2 ^ b.toNat)

/-- `(a << b) mod 256`, so 0 for counts of 8 or more (R120, R132, D6; log 11). -/
def shlResult (a b : Byte) : Byte := BitVec.ofNat 8 (a.toNat * 2 ^ b.toNat)

/-- The shape of `8XY4`, `8XY5`, `8XY6`, `8XY7`, `8XYE` (R121): the flag from the operands as they were, written to VF
first; then the result, from the operands that `ReadOperands()` gives, written to `Vx`. -/
def aluWithFlag (fa : FlagAlias) (x y : Reg) (flag result : Byte → Byte → Byte) (s : State) : State :=
  let a := s.readReg x
  let b := s.readReg y
  let f := flag a b
  (s.writeFlag f).writeReg x (result (rereadOperand fa x a f) (rereadOperand fa y b f))

end Sys2Proof.Machine
end

