-- ==== Sys2Proof/Machine/Alu.lean ====
section
/-! DEFINITION. Register loads and arithmetic-logic instructions (spec/41_alu.md R122 to R133). -/

namespace Sys2Proof.Machine

/-- `6XNN` (R122). -/
def execLdImm (x : Reg) (nn : Byte) (s : State) : Host.Outcome State Fault Refusal :=
  s.conclude (.ldImm x nn) (.ok (s.writeReg x nn, s.seqPc))

/-- `7XNN` (R123): no flag. -/
def execAddImm (x : Reg) (nn : Byte) (s : State) : Host.Outcome State Fault Refusal :=
  s.conclude (.addImm x nn) (.ok (s.writeReg x (addResult (s.readReg x) nn), s.seqPc))

/-- `8XY0` (R124). -/
def execLdReg (x y : Reg) (s : State) : Host.Outcome State Fault Refusal :=
  s.conclude (.ldReg x y) (.ok (s.writeReg x (s.readReg y), s.seqPc))

/-- `8XY1` (R125). -/
def execOrReg (x y : Reg) (s : State) : Host.Outcome State Fault Refusal :=
  s.conclude (.orReg x y) (.ok (s.writeReg x (s.readReg x ||| s.readReg y), s.seqPc))

/-- `8XY2` (R126). -/
def execAndReg (x y : Reg) (s : State) : Host.Outcome State Fault Refusal :=
  s.conclude (.andReg x y) (.ok (s.writeReg x (s.readReg x &&& s.readReg y), s.seqPc))

/-- `8XY3` (R127). -/
def execXorReg (x y : Reg) (s : State) : Host.Outcome State Fault Refusal :=
  s.conclude (.xorReg x y) (.ok (s.writeReg x (s.readReg x ^^^ s.readReg y), s.seqPc))

/-- `8XY4` (R128). -/
def execAddReg (x y : Reg) (s : State) : Host.Outcome State Fault Refusal :=
  s.conclude (.addReg x y) (.ok (aluWithFlag Config.flagAlias x y carryFlag addResult s, s.seqPc))

/-- `8XY5` (R129). -/
def execSub (x y : Reg) (s : State) : Host.Outcome State Fault Refusal :=
  s.conclude (.sub x y) (.ok (aluWithFlag Config.flagAlias x y noBorrowFlag subResult s, s.seqPc))

/-- `8XY6` (R130): `Vy` is the count. -/
def execShr (x y : Reg) (s : State) : Host.Outcome State Fault Refusal :=
  s.conclude (.shr x y) (.ok (aluWithFlag Config.flagAlias x y (fun a _ => shrFlag a) shrResult s, s.seqPc))

/-- `8XY7` (R131): `Vy` is the minuend. -/
def execSubn (x y : Reg) (s : State) : Host.Outcome State Fault Refusal :=
  s.conclude (.subn x y)
    (.ok (aluWithFlag Config.flagAlias x y (fun a b => noBorrowFlag b a) (fun a b => subResult b a) s, s.seqPc))

/-- `8XYE` (R132): `Vy` is the count. -/
def execShl (x y : Reg) (s : State) : Host.Outcome State Fault Refusal :=
  s.conclude (.shl x y) (.ok (aluWithFlag Config.flagAlias x y (fun a _ => shlFlag a) shlResult s, s.seqPc))

/-- `draw RNG` (spec/00_scope.md R8, spec/41_alu.md R133): a free byte, and the state that has drawn it (log 4). -/
def State.drawByte (s : State) : Byte × State := (Config.rng s.draws, { s with draws := s.draws + 1 })

/-- `CXNN` (R133). -/
def execRnd (x : Reg) (nn : Byte) (s : State) : Host.Outcome State Fault Refusal :=
  s.conclude (.rnd x nn) (.ok (s.drawByte.2.writeReg x (s.drawByte.1 &&& nn), s.seqPc))

end Sys2Proof.Machine
end

