-- ==== Sys2Proof/Machine/Control.lean ====
section
/-! DEFINITION. The no-operation, jumps, call, return and register skips (spec/40_control.md R100 to R110). -/

namespace Sys2Proof.Machine

/-- `0000` (R102). -/
def execNop (s : State) : Host.Outcome State Fault Refusal :=
  s.conclude .nop (.ok (s, s.seqPc))

/-- `00EE` (R103): the popped address becomes the next PC, no additional + 2. -/
def execRet (s : State) : Host.Outcome State Fault Refusal :=
  s.conclude .ret
    (match s.pop with
     | .error k => .error k
     | .ok (a, t) => .ok (t, a.toNat))

/-- `1NNN` (R104). -/
def execJp (nnn : Addr) (s : State) : Host.Outcome State Fault Refusal :=
  s.conclude (.jp nnn) (.ok (s, nnn.toNat))

/-- `2NNN` (R105): `PC + 2` is pushed as a number, not reduced. -/
def execCall (nnn : Addr) (s : State) : Host.Outcome State Fault Refusal :=
  s.conclude (.call nnn)
    (match s.push s.seqPc with
     | .error k => .error k
     | .ok t => .ok (t, nnn.toNat))

/-- `3XNN` (R106). -/
def execSeImm (x : Reg) (nn : Byte) (s : State) : Host.Outcome State Fault Refusal :=
  s.conclude (.seImm x nn) (.ok (s, s.skipPc (decide (s.readReg x = nn))))

/-- `4XNN` (R107). -/
def execSneImm (x : Reg) (nn : Byte) (s : State) : Host.Outcome State Fault Refusal :=
  s.conclude (.sneImm x nn) (.ok (s, s.skipPc (decide (s.readReg x ≠ nn))))

/-- `5XY0` (R108). -/
def execSeReg (x y : Reg) (s : State) : Host.Outcome State Fault Refusal :=
  s.conclude (.seReg x y) (.ok (s, s.skipPc (decide (s.readReg x = s.readReg y))))

/-- `9XY0` (R109). -/
def execSneReg (x y : Reg) (s : State) : Host.Outcome State Fault Refusal :=
  s.conclude (.sneReg x y) (.ok (s, s.skipPc (decide (s.readReg x ≠ s.readReg y))))

/-- `BNNN` (R110): the sum is a number; the commit reduces it. -/
def execJpV0 (nnn : Addr) (s : State) : Host.Outcome State Fault Refusal :=
  s.conclude (.jpV0 nnn) (.ok (s, nnn.toNat + (s.readReg 0#4).toNat))

end Sys2Proof.Machine
end

