-- ==== Sys2Proof/Machine/Display.lean ====
section
/-! DEFINITION. The framebuffer instructions and the sprite rasteriser (spec/43_display.md R150 to R152). -/

namespace Sys2Proof.Machine

/-- The pixels of one row byte from column `c` on, `k` of them: column `c` is bit `7 - c` of the byte (R151). -/
def Framebuffer.drawCols (fb : Framebuffer) (ox y : Nat) (row : Byte) (c : Nat) : Nat → Framebuffer × Bool
  | 0 => (fb, false)
  | k + 1 =>
    let p := fb.setPixel (ox + c) y (row.getLsbD (7 - c))
    let q := Framebuffer.drawCols p.1 ox y row (c + 1) k
    (q.1, p.2 || q.2)

/-- The rows of a sprite, top to bottom, from row `y` on: the framebuffer drawn and whether any pixel went from 1 to 0. -/
def Framebuffer.drawRows (fb : Framebuffer) (ox y : Nat) : List Byte → Framebuffer × Bool
  | [] => (fb, false)
  | row :: rows =>
    let p := fb.drawCols ox y row 0 Config.spriteWidth
    let q := Framebuffer.drawRows p.1 ox (y + 1) rows
    (q.1, p.2 || q.2)

/-- The state with `FB` written. -/
def State.setFramebuffer (s : State) (fb : Framebuffer) : State := { s with fb := fb }

/-- `00E0` (R150). -/
def execCls (s : State) : Host.Outcome State Fault Refusal :=
  s.conclude .cls (.ok (s.setFramebuffer Framebuffer.clear, s.seqPc))

/-- `DXYN` (R151): the bound is `I + N`, one past the last row read (conflict C4). -/
def execDrw (x y : Reg) (n : Nibble) (s : State) : Host.Outcome State Fault Refusal :=
  s.conclude (.drw x y n)
    (if s.i.toNat + n.toNat ≥ Config.memSize then .error .memoryAccess
     else
       match s.loadBytes s.i.toNat n.toNat with
       | .error k => .error k
       | .ok rows =>
         let d := s.fb.drawRows (s.readReg x).toNat (s.readReg y).toNat rows
         .ok ((s.setFramebuffer d.1).writeFlag (flagByte d.2), s.seqPc))

end Sys2Proof.Machine
end

