-- ==== Sys2Proof/Machine/IndexMemory.lean ====
section
/-! DEFINITION. The index register, BCD and register save and restore (spec/42_index_memory.md R140 to R145). Each rule
checks its whole range before its first access. -/

namespace Sys2Proof.Machine

/-- `ANNN` (R140). -/
def execLdI (nnn : Addr) (s : State) : Host.Outcome State Fault Refusal :=
  s.conclude (.ldI nnn) (.ok (s.setIndex nnn.toNat, s.seqPc))

/-- `FX1E` (R141): a sum above 0x1000 raises Undefined; VF is not written. -/
def execAddI (x : Reg) (s : State) : Host.Outcome State Fault Refusal :=
  s.conclude (.addI x)
    (if s.i.toNat + (s.readReg x).toNat > Config.memSize then .error .undefinedBehaviour
     else .ok (s.setIndex (s.i.toNat + (s.readReg x).toNat), s.seqPc))

/-- `FX29` (R142): a value above 15 raises Undefined. -/
def execLdF (x : Reg) (s : State) : Host.Outcome State Fault Refusal :=
  s.conclude (.ldF x)
    (if (s.readReg x).toNat > 15 then .error .undefinedBehaviour
     else .ok (s.setIndex (Config.fontOffset + Config.glyphBytes * (s.readReg x).toNat), s.seqPc))

/-- `FX33` (R143). -/
def execLdB (x : Reg) (s : State) : Host.Outcome State Fault Refusal :=
  s.conclude (.ldB x)
    (if s.i.toNat + 2 ≥ Config.memSize then .error .memoryAccess
     else
       match s.storeBytes s.i.toNat (decimalDigits (s.readReg x)) with
       | .error k => .error k
       | .ok t => .ok (t, s.seqPc))

/-- `FX55` (R144). -/
def execLdMemVx (x : Reg) (s : State) : Host.Outcome State Fault Refusal :=
  s.conclude (.ldMemVx x)
    (if s.i.toNat + x.toNat ≥ Config.memSize then .error .memoryAccess
     else
       match s.storeBytes s.i.toNat (s.regsUpTo x) with
       | .error k => .error k
       | .ok t => .ok (t.setIndex (s.i.toNat + x.toNat + 1), s.seqPc))

/-- `FX65` (R145). -/
def execLdVxMem (x : Reg) (s : State) : Host.Outcome State Fault Refusal :=
  s.conclude (.ldVxMem x)
    (if s.i.toNat + x.toNat ≥ Config.memSize then .error .memoryAccess
     else
       match s.loadBytes s.i.toNat (x.toNat + 1) with
       | .error k => .error k
       | .ok bs => .ok ((s.writeRegs 0 bs).setIndex (s.i.toNat + x.toNat + 1), s.seqPc))

end Sys2Proof.Machine
end

