-- ==== Sys2Proof/Machine/TimersKeys.lean ====
section
/-! DEFINITION. Keypad and timer instructions and the key wait (spec/44_timers_keys.md R160 to R167). -/

namespace Sys2Proof.Machine

/-- `EX9E` (R161): no key pressed, no skip. -/
def execSkp (x : Reg) (s : State) : Host.Outcome State Fault Refusal :=
  s.conclude (.skp x)
    (.ok (s, s.skipPc (match s.key with
                       | none => false
                       | some k => keyEquals k (s.readReg x))))

/-- `EXA1` (R162): no key pressed, no skip either. -/
def execSknp (x : Reg) (s : State) : Host.Outcome State Fault Refusal :=
  s.conclude (.sknp x)
    (.ok (s, s.skipPc (match s.key with
                       | none => false
                       | some k => !keyEquals k (s.readReg x))))

/-- `FX07` (R163). -/
def execLdVxDt (x : Reg) (s : State) : Host.Outcome State Fault Refusal :=
  s.conclude (.ldVxDt x) (.ok (s.writeReg x s.dt, s.seqPc))

/-- `FX0A` (R164): it always parks, and `PC` is not advanced. -/
def execLdVxK (x : Reg) (s : State) : Host.Outcome State Fault Refusal :=
  s.conclude (.ldVxK x) (.ok ((s.setWaitReg x).setMode .waitForKey, s.pc.toNat))

/-- `FX15` (R166). -/
def execLdDtVx (x : Reg) (s : State) : Host.Outcome State Fault Refusal :=
  s.conclude (.ldDtVx x) (.ok (s.setDelayTimer (s.readReg x), s.seqPc))

/-- `FX18` (R167). -/
def execLdStVx (x : Reg) (s : State) : Host.Outcome State Fault Refusal :=
  s.conclude (.ldStVx x) (.ok (s.setSoundTimer (s.readReg x), s.seqPc))

/-- `ServiceKeyWait()` (R165): the step while parked. It fetches nothing and cannot fault. -/
def State.serviceKeyWait (s : State) : State :=
  match s.key with
  | none => s
  | some k => ((s.writeReg s.waitReg (k.setWidth 8)).setMode .running).commitPc s.seqPc

end Sys2Proof.Machine
end

