-- ==== Sys2Proof/Machine/Cycle.lean ====
section
/-! DEFINITION. The instruction cycle: fetch, decode, execute, and what a step does in each mode
(spec/30_encoding.md R90 to R97). -/

namespace Sys2Proof.Machine

/-- The fetch (R90; big-endian, spec/20_memory.md R54): the bound on `PC + 1` is checked first. -/
def State.fetchWord (s : State) : Except FaultKind Word :=
  if s.pc.toNat + 1 ≥ Config.memSize then .error .memoryAccess
  else
    match s.memRead s.pc.toNat with
    | .error k => .error k
    | .ok hi =>
      match s.memRead (s.pc.toNat + 1) with
      | .error k => .error k
      | .ok lo => .ok (wordOfBytes hi lo)

/-- A step in RUNNING (R93): a fetch fault has no word, an illegal word is recorded (R91, spec/60_exceptions.md R170). -/
def State.runInstruction (s : State) : Host.Outcome State Fault Refusal :=
  match s.fetchWord with
  | .error k => .next (s.raise k none)
  | .ok w =>
    match decode w with
    | .error _ => .next (s.raise .illegalInstruction (some w))
    | .ok i => exec i s

/-- `Step()` (R93): a recorded fault first (R96), then the mode (R95, R97), in the order of spec/60_exceptions.md R173. -/
def State.cycle (s : State) : Host.Outcome State Fault Refusal :=
  match s.fault with
  | some _ => .next s
  | none =>
    match s.mode with
    | .init => .next (s.raise .unimplementedState none)
    | .running => s.runInstruction
    | .waitForKey => .next s.serviceKeyWait
    | .unused => .next (s.raise .unimplementedState none)

/-- What a fetch needs besides the bytes: RUNNING, no recorded fault, and a `PC` with two bytes at it (0x200, where
`load_program` starts a program, in place of 0xFFF). It changes nothing in a state that can already fetch. -/
def State.readyToFetch (s : State) : State :=
  { s with mode := .running, fault := none, pc := if s.pc.toNat + 1 ≥ Config.memSize then 0x200#12 else s.pc }

/-- The word `w` stored at `PC`, big-endian (R54). -/
def State.placeWord (s : State) (w : Word) : State :=
  s.setMem (Memory.writeBytes s.mem s.pc.toNat [highByte w, lowByte w])

end Sys2Proof.Machine
end

