-- ==== Sys2Proof/Machine/HostOps.lean ====
section
/-! DEFINITION. The host interface (spec/60_exceptions.md R185): every operation the host can call between steps, each
one atomic (spec/20_memory.md R57). The step itself never performs one of them (log 12). -/

namespace Sys2Proof.Machine

/-- A timer one tick later: decremented while non-zero (spec/60_exceptions.md R180). -/
def tickTimer (t : Byte) : Byte := BitVec.ofNat 8 (t.toNat - 1)

/-- `tick_timers()` (R180): in every mode, and while a fault is recorded. -/
def State.tickTimers (s : State) : State := { s with dt := tickTimer s.dt, st := tickTimer s.st }

/-- `key_down(k)` (R183). -/
def State.keyDown (s : State) (k : Nibble) : State := { s with key := some k }

/-- `key_up()` (R183). -/
def State.keyUp (s : State) : State := { s with key := none }

/-- `SOUND_ACTIVE` (spec/10_state.md R32). -/
def State.soundActive (s : State) : Bool := decide (s.st ≠ 0#8)

/-- `reset()` (spec/70_reset_and_hazards.md R200, spec/10_state.md R40): with `load_program`, the only way out of a fault
(spec/60_exceptions.md R172, R176). `KEY` is kept; `FB` is cleared or kept (`RESET_CLEARS_FB`, log 3); the random
source goes on where it was (log 4). -/
def State.resetOp (s : State) : State :=
  { s with
    mem := []
    v := Vector.replicate 16 0#8
    pc := 0
    i := 0
    stack := []
    dt := 0
    st := 0
    fb := if Config.resetClearsFb then Framebuffer.clear else s.fb
    mode := .running
    waitReg := 0
    fault := none }

/-- `load_program(bytes)` (spec/70_reset_and_hazards.md R203): the state after, and the fault it reports. Too long a
program raises like a step does (spec/00_scope.md R8, spec/60_exceptions.md R170, R171): `FAULT` is the record, with no
word, and nothing else changes, in any state. That the record takes the place of one that stands is DEDUCED (log 8),
unsafe. -/
def State.loadProgram (s : State) (bytes : List Byte) : State × Option FaultKind :=
  if bytes.length > Config.maxProgramBytes then (s.raise .memoryAccess none, some .memoryAccess)
  else
    ({ s.resetOp with
       mem := Memory.writeBytes s.resetOp.mem Config.programLoadOffset bytes
       pc := BitVec.ofNat 12 Config.programLoadOffset }, none)

/-- One write through `state_mut()` (spec/60_exceptions.md R188): an element of spec/10_state.md R20 and a value of its
type. A register and a byte of memory are named by any number, and their values are reduced to 8 bits (R22,
spec/20_memory.md R52). That a memory index outside `[0, 4096)` can be named, and is checked by R52, is DEDUCED (log 7),
unsafe: R170 and R188 name a fault of the host accessors only for a register index. -/
inductive StateWrite
  | mem (a v : Nat)
  | reg (r v : Nat)
  | pc (a : Addr)
  | index (n : Fin 4097)
  | stack (frames : List Addr) (fits : frames.length ≤ 4096)
  | dt (v : Byte)
  | st (v : Byte)
  | pixel (x y : Nat) (v : Bool)
  | mode (m : Mode)
  | key (k : Option Nibble)
  | waitReg (r : Reg)
  | fault (r : Option FaultRecord)
  deriving DecidableEq, Repr

/-- A pixel set to `v`, whatever it was; coordinates wrap (spec/10_state.md R34). -/
def Framebuffer.putPixel (fb : Framebuffer) (x y : Nat) (v : Bool) : Framebuffer :=
  (fb.setPixel x y (fb.pixel x y != v)).1

/-- A write through `state_mut()` (R188): a register index outside `[0, 16)` raises RegisterAccess (R25), a memory
index outside `[0, 4096)` MemoryAccess (spec/20_memory.md R52; log 7); such a write changes nothing but `FAULT` (R171). -/
def State.stateMut (s : State) (w : StateWrite) : State × Option FaultKind :=
  match w with
  | .mem a v =>
    match s.memWrite a (BitVec.ofNat 8 v) with
    | .ok t => (t, none)
    | .error k => (s.raise k none, some k)
  | .reg r v =>
    if r < 16 then (s.writeReg (BitVec.ofNat 4 r) (BitVec.ofNat 8 v), none)
    else (s.raise .registerAccess none, some .registerAccess)
  | .pc a => ({ s with pc := a }, none)
  | .index n => (s.setIndex n.val, none)
  | .stack frames _ => ({ s with stack := frames }, none)
  | .dt v => ({ s with dt := v }, none)
  | .st v => ({ s with st := v }, none)
  | .pixel x y v => (s.setFramebuffer (s.fb.putPixel x y v), none)
  | .mode m => ({ s with mode := m }, none)
  | .key k => ({ s with key := k }, none)
  | .waitReg r => ({ s with waitReg := r }, none)
  | .fault r => ({ s with fault := r }, none)

/-- A byte of memory read through `state()` (R188), checked like every access (spec/20_memory.md R52; log 7). A read reports
its fault and changes nothing, for `state()` has no effect (R185). -/
def State.observeByte (s : State) (a : Nat) : Except FaultKind Byte := s.memRead a

/-- A register read through `state()` (R188, R25), reported likewise. -/
def State.observeReg (s : State) (r : Nat) : Except FaultKind Byte :=
  if r < 16 then .ok (s.readReg (BitVec.ofNat 4 r)) else .error .registerAccess

/-- The operations of the host interface (R185), and `present()` (R190). -/
inductive HostOp
  | step
  | tickTimers
  | reset
  | loadProgram (bytes : List Byte)
  | keyDown (k : Nibble)
  | keyUp
  /-- `state()`: reads, changes nothing (R188). -/
  | state
  | stateMut (w : StateWrite)
  /-- The framebuffer snapshot: reads, changes nothing (R189). -/
  | snapshot
  /-- `present()`: changes no CORE state (R190). -/
  | present
  deriving DecidableEq, Repr

/-- The state after a host operation (R185). -/
def HostOp.apply (op : HostOp) (s : State) : Host.Outcome State Fault Refusal :=
  match op with
  | .step => Sys2Proof.Machine.step s
  | .tickTimers => .next s.tickTimers
  | .reset => .next s.resetOp
  | .loadProgram bytes => .next (s.loadProgram bytes).1
  | .keyDown k => .next (s.keyDown k)
  | .keyUp => .next s.keyUp
  | .state => .next s
  | .stateMut w => .next (s.stateMut w).1
  | .snapshot => .next s
  | .present => .next s

/-- The fault a host operation reports (R185, column "output"): after a step, the kind in `FAULT`. -/
def HostOp.reportedFault (op : HostOp) (s : State) : Option FaultKind :=
  match op with
  | .step =>
    match Sys2Proof.Machine.step s with
    | .next t => t.fault.map (·.kind)
    | _ => none
  | .loadProgram bytes => (s.loadProgram bytes).2
  | .stateMut w => (s.stateMut w).2
  | _ => none

end Sys2Proof.Machine
end

