-- ==== Sys2Proof/Safety.lean ====
section
/-! DEFINITION. The terms claims are made in: which elements of the state a change leaves alone, what an instruction may
write, the invariants of spec/10_state.md R39, and what a safe run is. -/

namespace Sys2Proof.Machine

/-- The elements of the state (spec/10_state.md R20) and the model's own draw counter. -/
inductive Element
  | mem | regs | pc | index | stack | dt | st | fb | mode | key | waitReg | fault | draws
  deriving DecidableEq, Repr

/-- From `s` to `t` the element reads as before: memory by every byte, registers by every register. -/
def State.keeps (s t : State) : Element → Prop
  | .mem => ∀ a, t.readByte a = s.readByte a
  | .regs => ∀ r, t.readReg r = s.readReg r
  | .pc => t.pc = s.pc
  | .index => t.i = s.i
  | .stack => t.stack = s.stack
  | .dt => t.dt = s.dt
  | .st => t.st = s.st
  | .fb => t.fb = s.fb
  | .mode => t.mode = s.mode
  | .key => t.key = s.key
  | .waitReg => t.waitReg = s.waitReg
  | .fault => t.fault = s.fault
  | .draws => t.draws = s.draws

/-- From `s` to `t` every element but the listed ones reads as before. -/
def State.keepsAllBut (changed : List Element) (s t : State) : Prop := ∀ e, e ∉ changed → s.keeps t e

/-- From `s` to `t` every register but those `p` names reads as before. -/
def State.keepsRegsBut (p : Reg → Prop) (s t : State) : Prop := ∀ r, ¬ p r → t.readReg r = s.readReg r

/-- `PC` of `t` is `PC` of `s` plus `k`, modulo the memory size (spec/30_encoding.md R92). -/
def State.pcAdvancedBy (k : Nat) (s t : State) : Prop := t.pc.toNat = (s.pc.toNat + k) % 4096

/-- The outcome of an instruction whose one effect is `V[x] <- n` (spec/00_scope.md R9). -/
def State.onlyWroteReg (s : State) (x : Reg) (n : Nat) (t : State) : Prop :=
  (t.readReg x).toNat = n ∧ s.keepsRegsBut (· = x) t ∧ s.pcAdvancedBy 2 t ∧ s.keepsAllBut [.regs, .pc] t

/-- The outcome of an instruction whose one effect is on `PC`. -/
def State.onlyMovedPc (s : State) (target : Nat) (t : State) : Prop :=
  t.pc.toNat = target % 4096 ∧ s.keepsAllBut [.pc] t

/-- The outcome of a raise: the fault record `(k, PC, w)` and nothing else (spec/60_exceptions.md R171). -/
def State.onlyFaulted (s : State) (k : FaultKind) (w : Option Word) (t : State) : Prop :=
  t.fault = some ⟨k, s.pc, w⟩ ∧ s.keepsAllBut [.fault] t

/-- The operand value of register `r` for the result of a flag-writing ALU instruction: `old`, or, if `r` is VF and
`FLAG_ALIAS` is SEQUENTIAL, the new flag `f` (spec/41_alu.md R121). -/
def aliasedOperand (r : Reg) (old f : Nat) : Nat :=
  if r = 0xF#4 ∧ Config.flagAlias = .sequential then f else old

/-- The outcome of a flag-writing ALU instruction (R121): the result, from the aliased operands, in `Vx`; the flag in VF
unless VF is `Vx`; nothing else but `PC`. -/
def State.aluOutcome (s : State) (x y : Reg) (flag : Nat) (result : Nat → Nat → Nat) (t : State) : Prop :=
  (t.readReg x).toNat
      = result (aliasedOperand x (s.readReg x).toNat flag) (aliasedOperand y (s.readReg y).toNat flag)
    ∧ (x ≠ 0xF#4 → (t.readReg 0xF#4).toNat = flag)
    ∧ s.keepsRegsBut (fun r => r = x ∨ r = 0xF#4) t
    ∧ s.pcAdvancedBy 2 t
    ∧ s.keepsAllBut [.regs, .pc] t

/-- The elements an instruction's rule names (spec/00_scope.md R9), `FAULT` among them where the rule can raise. -/
def mayWrite : Instr → List Element
  | .nop | .jp _ | .seImm _ _ | .sneImm _ _ | .seReg _ _ | .sneReg _ _ | .jpV0 _ | .skp _ | .sknp _ => [.pc]
  | .cls => [.fb, .pc]
  | .ret => [.stack, .pc, .fault]
  | .call _ => [.stack, .pc, .fault]
  | .ldImm _ _ | .addImm _ _ | .ldReg _ _ | .orReg _ _ | .andReg _ _ | .xorReg _ _ => [.regs, .pc]
  | .addReg _ _ | .sub _ _ | .shr _ _ | .subn _ _ | .shl _ _ | .ldVxDt _ => [.regs, .pc]
  | .ldI _ => [.index, .pc]
  | .rnd _ _ => [.regs, .draws, .pc]
  | .drw _ _ _ => [.regs, .fb, .pc, .fault]
  | .ldVxK _ => [.mode, .waitReg, .pc]
  | .ldDtVx _ => [.dt, .pc]
  | .ldStVx _ => [.st, .pc]
  | .addI _ => [.index, .pc, .fault]
  | .ldF _ => [.index, .pc, .fault]
  | .ldB _ => [.mem, .pc, .fault]
  | .ldMemVx _ => [.mem, .index, .pc, .fault]
  | .ldVxMem _ => [.regs, .index, .pc, .fault]

/-- The registers an instruction may write: its destination, VF for the six flag-writing instructions (spec/10_state.md R23),
and `V0..VX` for `FX65`. -/
def mayWriteReg : Instr → Reg → Prop
  | .ldImm x _, r | .addImm x _, r | .ldReg x _, r | .orReg x _, r | .andReg x _, r | .xorReg x _, r
  | .rnd x _, r | .ldVxDt x, r => r = x
  | .addReg x _, r | .sub x _, r | .shr x _, r | .subn x _, r | .shl x _, r => r = x ∨ r = 0xF#4
  | .drw _ _ _, r => r = 0xF#4
  | .ldVxMem x, r => r.toNat ≤ x.toNat
  | .nop, _ | .cls, _ | .ret, _ | .jp _, _ | .call _, _ | .seImm _ _, _ | .sneImm _ _, _ | .seReg _ _, _
  | .sneReg _ _, _ | .ldI _, _ | .jpV0 _, _ | .skp _, _ | .sknp _, _ | .ldVxK _, _ | .ldDtVx _, _ | .ldStVx _, _
  | .addI _, _ | .ldF _, _ | .ldB _, _ | .ldMemVx _, _ => False

/-- The bytes an instruction may store to, from the address its rule gives: the value of `I` (spec/20_memory.md R51). -/
def mayStoreTo (s : State) : Instr → Nat → Prop
  | .ldB _, a => s.i.toNat ≤ a ∧ a ≤ s.i.toNat + 2
  | .ldMemVx x, a => s.i.toNat ≤ a ∧ a ≤ s.i.toNat + x.toNat
  | .nop, _ | .cls, _ | .ret, _ | .jp _, _ | .call _, _ | .seImm _ _, _ | .sneImm _ _, _ | .seReg _ _, _
  | .ldImm _ _, _ | .addImm _ _, _ | .ldReg _ _, _ | .orReg _ _, _ | .andReg _ _, _ | .xorReg _ _, _
  | .addReg _ _, _ | .sub _ _, _ | .shr _ _, _ | .subn _ _, _ | .shl _ _, _ | .sneReg _ _, _ | .ldI _, _
  | .jpV0 _, _ | .rnd _ _, _ | .drw _ _ _, _ | .skp _, _ | .sknp _, _ | .ldVxDt _, _ | .ldVxK _, _
  | .ldDtVx _, _ | .ldStVx _, _ | .addI _, _ | .ldF _, _ | .ldVxMem _, _ => False

/-- Why an instruction raises: the kind and the condition its rule gives (spec/60_exceptions.md R170, R173). -/
def raisesWhen (s : State) : Instr → FaultKind → Prop
  | .ret, k => k = .stackUnderflow ∧ s.stack = []
  | .call _, k =>
    (k = .memoryAccess ∧ s.pc = 0xFFE#12 ∨ k = .memoryAccess ∧ s.pc = 0xFFF#12)
      ∨ (k = .undefinedBehaviour ∧ s.pc.toNat + 2 < 4096 ∧ 4096 ≤ s.stack.length)
  | .drw _ _ n, k => k = .memoryAccess ∧ 4096 ≤ s.i.toNat + n.toNat
  | .addI x, k => k = .undefinedBehaviour ∧ 4096 < s.i.toNat + (s.readReg x).toNat
  | .ldF x, k => k = .undefinedBehaviour ∧ 15 < (s.readReg x).toNat
  | .ldB _, k => k = .memoryAccess ∧ 0xFFD < s.i.toNat
  | .ldMemVx x, k => k = .memoryAccess ∧ 4096 ≤ s.i.toNat + x.toNat
  | .ldVxMem x, k => k = .memoryAccess ∧ 4096 ≤ s.i.toNat + x.toNat
  | .nop, _ | .cls, _ | .jp _, _ | .seImm _ _, _ | .sneImm _ _, _ | .seReg _ _, _ | .ldImm _ _, _
  | .addImm _ _, _ | .ldReg _ _, _ | .orReg _ _, _ | .andReg _ _, _ | .xorReg _ _, _ | .addReg _ _, _
  | .sub _ _, _ | .shr _ _, _ | .subn _ _, _ | .shl _ _, _ | .sneReg _ _, _ | .ldI _, _ | .jpV0 _, _
  | .rnd _ _, _ | .skp _, _ | .sknp _, _ | .ldVxDt _, _ | .ldVxK _, _ | .ldDtVx _, _ | .ldStVx _, _ => False

/-- The invariant of spec/10_state.md R39 that the types of State do not already say: memory in canonical form, `I` at
most the memory size, at most 4096 stack entries, a mode of the CORE. -/
def State.inv (s : State) : Prop :=
  s.mem.wf = true ∧ s.i.toNat ≤ 4096 ∧ s.stack.length ≤ 4096 ∧ s.mode ≠ .unused

/-- "`MODE = WAIT_FOR_KEY` implies `WAIT_REG` was written by the `FX0A` that entered the mode" (R39), as a fact about one
state: the word at `PC` is that `FX0A`, and its `X` is `WAIT_REG` (spec/44_timers_keys.md R164, R165). -/
def State.parkedAtKeyWait (s : State) : Prop :=
  s.mode = .waitForKey → s.fetchWord = .ok (encode (.ldVxK s.waitReg))

/-- A recorded fault names the instruction at `PC` (spec/10_state.md R38, spec/60_exceptions.md R171): its `pc` is `PC`, and
its word, where it has one, is the word there. -/
def State.faultRecordFits (s : State) : Prop :=
  ∀ r, s.fault = some r → r.pc = s.pc ∧ ∀ w, r.word = some w → s.fetchWord = .ok w

/-- A host operation that is no write through `state_mut()`, which the spec's runs leave out (spec/60_exceptions.md R188). -/
def HostOp.notStateMut : HostOp → Prop
  | .stateMut _ => False
  | .step | .tickTimers | .reset | .loadProgram _ | .keyDown _ | .keyUp | .state | .snapshot | .present => True

/-- The sprite bit that a draw of `rows` at `(ox, oy)` puts on pixel `(px, py)`, each pixel wrapping separately
(spec/43_display.md R151): the pixel's column and row counted from the origin around the screen, and if they fall in the
sprite, bit `7 - column` of that row. -/
def spriteBit (rows : List Byte) (ox oy px py : Nat) : Bool :=
  let c := (px + 64 - ox % 64) % 64
  let r := (py + 32 - oy % 32) % 32
  decide (c < 8) && (rows.getD r 0).getLsbD (7 - c)

/-- A safe run of `k` steps: none of them records a fault. -/
def State.runsSafely (s : State) (k : Nat) : Prop :=
  ∃ t, Host.Core.run Sys2Proof.core k s = .next t ∧ t.fault = none

end Sys2Proof.Machine
end

