-- ==== Sys2Proof/Certificates/Slice0/Obligations.lean ====
section
/-! DEFINITION. The statements for the provers. Each docstring names the rule of spec/ it formalises, or says that it rests
on a choice of the model's own. A result is read through the model's readers (`readReg`, `readByte`, `pixel`) and said in
numbers, and each result statement says with it what stays as it was. -/

open Sys2Proof Sys2Proof.Machine

/-! ### Encoding and decoding -/

/-- Decoding an encoded instruction gives it back, for every operand value (spec/30_encoding.md R72, R75). -/
def Obligations.DecodeInvertsEncode : Prop := ∀ i : Instr, decode (encode i) = .ok i

/-- A word decodes to at most one instruction, and that instruction's word is the word: decoding drops no bit (R72, R75). -/
def Obligations.EncodeInvertsDecode : Prop := ∀ (w : Word) (i : Instr), decode w = .ok i → encode i = w

/-- The decoder rejects exactly the words of the table of R76, each under its own row (not its counts). -/
def Obligations.DecodeRejectsExactlyIllegalWords : Prop :=
  (∀ (w : Word) (p : IllegalPattern), decode w = .error (.illegal p) ↔ p.covers w = true)
    ∧ (∀ w : Word, decode w ≠ .error .truncated)
    ∧ ∀ w : Word, (∃ i, decode w = .ok i) ↔ wellFormedWord w = true

/-- Words written out from the patterns of R74, one or more of each family, decode to what they stand for. -/
def Obligations.WrittenWordsDecode : Prop :=
  decode 0x00EE#16 = .ok .ret ∧ decode 0x1FFF#16 = .ok (.jp 0xFFF#12) ∧ decode 0x33AA#16 = .ok (.seImm 3#4 0xAA#8)
    ∧ decode 0x8AB6#16 = .ok (.shr 0xA#4 0xB#4) ∧ decode 0xC00F#16 = .ok (.rnd 0#4 0x0F#8)
    ∧ decode 0xA300#16 = .ok (.ldI 0x300#12) ∧ decode 0xD125#16 = .ok (.drw 1#4 2#4 5#4)
    ∧ decode 0xE2A1#16 = .ok (.sknp 2#4) ∧ decode 0xF50A#16 = .ok (.ldVxK 5#4) ∧ decode 0xF265#16 = .ok (.ldVxMem 2#4)

/-! ### The step -/

/-- A RUNNING step with two bytes at `PC` that decode runs the instruction (R90, R92, R93). The step adds nothing around
`exec`: `exec` commits the next PC itself. One instruction for each step is the spec's decision D16. -/
def Obligations.StepRunsDecodedInstruction : Prop :=
  ∀ (s : State) (i : Instr), s.fault = none → s.mode = .running → s.pc.toNat + 1 < 4096 →
    decode (wordOfBytes (s.readByte s.pc.toNat) (s.readByte (s.pc.toNat + 1))) = .ok i → step s = exec i s

/-- An instruction placed where the next step fetches is what that step runs, from any state whose memory is canonical
(the model's own `withFetchWord`, log 13; the fetch is R90). -/
def Obligations.PlacedWordIsFetchedAndRun : Prop :=
  ∀ (s : State) (w : Nat) (i : Instr), s.mem.wf = true → decodeTableWord 16 w = some i →
    step (s.withFetchWord 16 w) = exec i (s.withFetchWord 16 w)

/-- R90: the bound on `PC + 1` comes first and raises with no word; otherwise two bytes are read, big-endian. -/
def Obligations.FetchReadsTwoBytesBigEndian : Prop :=
  ∀ s : State, s.fault = none → s.mode = .running →
    (s.pc = 0xFFF#12 → ∃ t, step s = .next t ∧ s.onlyFaulted .memoryAccess none t)
      ∧ (s.pc ≠ 0xFFF#12 → ∃ w, s.fetchWord = .ok w
          ∧ w.toNat = (s.readByte s.pc.toNat).toNat * 256 + (s.readByte (s.pc.toNat + 1)).toNat)

/-- R91: an illegal word raises before any state changes; `PC` stays at it. -/
def Obligations.IllegalWordRaisesAndChangesNothing : Prop :=
  ∀ (s : State) (w : Word) (e : DecodeReject), s.fault = none → s.mode = .running → s.fetchWord = .ok w →
    decode w = .error e → ∃ t, step s = .next t ∧ s.onlyFaulted .illegalInstruction (some w) t

/-- R95, R97: a step in INIT or in the unused mode raises UnimplementedState and changes nothing else (for INIT the spec's
decision D11). -/
def Obligations.StepInUnknownModeRaises : Prop :=
  ∀ s : State, s.fault = none → s.mode = .init ∨ s.mode = .unused →
    ∃ t, step s = .next t ∧ s.onlyFaulted .unimplementedState none t

/-- Every state has a next state: the model itself never stops (R93, R171; log 1). -/
def Obligations.StepAlwaysAnswersNext : Prop := ∀ s : State, ∃ t, step s = .next t

/-- R171: a step that raises changes nothing but `FAULT`, which names the instruction at `PC` and its word, if one was
fetched (the validating form and the record are the spec's decisions D2, D3). -/
def Obligations.FaultingStepChangesOnlyFault : Prop :=
  ∀ (s t : State) (r : FaultRecord), s.fault = none → step s = .next t → t.fault = some r →
    t = { s with fault := some r } ∧ r.pc = s.pc
      ∧ r.word = (if s.mode = .running then s.fetchWord.toOption else none)

/-- R172, R96: a recorded fault stops every step; only `reset()` and a `load_program` that fits clear it; the timers and the
key slot still work (the spec's decisions D2, D29). That an over-long `load_program`, which raises, puts its own record in
the place of one that stands is log 8. -/
def Obligations.RecordedFaultIsSticky : Prop :=
  ∀ (s : State) (r : FaultRecord), s.fault = some r →
    step s = .next s
      ∧ (∀ (op : HostOp) (t : State), op.notStateMut → op.apply s = .next t →
          (t.fault = none → op = .reset ∨ ∃ bytes, op = .loadProgram bytes ∧ bytes.length ≤ 3584)
            ∧ (t.fault ≠ some r → op = .reset ∨ ∃ bytes, op = .loadProgram bytes))
      ∧ s.resetOp.fault = none
      ∧ (∀ bytes : List Byte, bytes.length ≤ 3584 → (s.loadProgram bytes).1.fault = none)
      ∧ s.tickTimers.dt.toNat = s.dt.toNat - 1 ∧ s.tickTimers.st.toNat = s.st.toNat - 1
      ∧ (∀ k, (s.keyDown k).key = some k) ∧ s.keyUp.key = none

/-- R170, R173: an instruction raises exactly when its own rule says, with the kind the rule gives, recording its address
and its word (R170 and R173 rest on the spec's decisions D4, D7, D8, D9, D26; the word is log 9). -/
def Obligations.InstructionsRaiseExactlyTheirFaults : Prop :=
  ∀ (i : Instr) (s t : State), s.fault = none → exec i s = .next t →
    (∀ k, raisesWhen s i k → t.fault = some ⟨k, s.pc, some (encode i)⟩)
      ∧ ∀ r, t.fault = some r → raisesWhen s i r.kind

/-- R165: the step of a parked machine. With no key it changes nothing; with one it completes the parked `FX0A` and runs no
other instruction (the spec's decision D16). -/
def Obligations.KeyWaitServiceCompletesTheWait : Prop :=
  ∀ s : State, s.fault = none → s.mode = .waitForKey →
    (s.key = none → step s = .next s)
      ∧ ∀ k, s.key = some k → ∃ t, step s = .next t
          ∧ (t.readReg s.waitReg).toNat = k.toNat ∧ s.keepsRegsBut (· = s.waitReg) t
          ∧ t.mode = .running ∧ s.pcAdvancedBy 2 t ∧ s.keepsAllBut [.regs, .mode, .pc] t

/-! ### Invariants -/

/-- The invariants hold after reset and at power-on (spec/10_state.md R39, R40). -/
def Obligations.ResetMeetsTheInvariants : Prop :=
  (State.reset.inv ∧ State.reset.parkedAtKeyWait ∧ State.reset.faultRecordFits)
    ∧ State.powerOn.inv ∧ State.powerOn.parkedAtKeyWait ∧ State.powerOn.faultRecordFits

/-- R39: every step keeps memory in canonical form, `I` at most 0x1000, the stack within its depth, the mode a mode. -/
def Obligations.StepKeepsTheStateInvariant : Prop :=
  ∀ s t : State, s.inv → step s = .next t → t.inv

/-- R39 "between any two host operations": every other host operation keeps it too, but writes through `state_mut()`. -/
def Obligations.HostOperationsKeepTheStateInvariant : Prop :=
  ∀ (op : HostOp) (s t : State), op.notStateMut → op ≠ .step → s.inv → op.apply s = .next t → t.inv

/-- R39, R164, R165: a parked machine stands at the `FX0A` that parked it, and `WAIT_REG` is that instruction's `X`. -/
def Obligations.ParkedMachineStandsAtItsKeyWait : Prop :=
  ∀ (op : HostOp) (s t : State), op.notStateMut → s.parkedAtKeyWait → op.apply s = .next t → t.parkedAtKeyWait

/-- R38, R171: while a fault is recorded, the record names the instruction at `PC`. -/
def Obligations.FaultRecordNamesTheInstructionAtPc : Prop :=
  ∀ (op : HostOp) (s t : State), op.notStateMut → s.faultRecordFits → op.apply s = .next t → t.faultRecordFits

/-! ### Control transfer -/

/-- R102: `0000` only advances. -/
def Obligations.NopOnlyAdvances : Prop :=
  decode 0x0000#16 = .ok .nop ∧ ∀ s : State, ∃ t, exec .nop s = .next t ∧ s.onlyMovedPc (s.pc.toNat + 2) t

/-- R104, R110: the jumps go to their target, modulo the memory size, and change nothing else. -/
def Obligations.JumpsGoToTheirTarget : Prop :=
  ∀ (nnn : Addr) (s : State),
    (decode (wordTNNN 0x1#4 nnn) = .ok (.jp nnn)
      ∧ ∃ t, exec (.jp nnn) s = .next t ∧ s.onlyMovedPc nnn.toNat t)
    ∧ decode (wordTNNN 0xB#4 nnn) = .ok (.jpV0 nnn)
      ∧ ∃ t, exec (.jpV0 nnn) s = .next t ∧ s.onlyMovedPc (nnn.toNat + (s.readReg 0#4).toNat) t

/-- R105: `2NNN` pushes `PC + 2`; the address bound raises before the depth bound (the spec's decisions D9, D10, D26). -/
def Obligations.CallPushesTheReturnAddress : Prop :=
  ∀ (nnn : Addr) (s : State),
    decode (wordTNNN 0x2#4 nnn) = .ok (.call nnn)
    ∧ (s.pc.toNat + 2 < 4096 → s.stack.length < 4096 →
        ∃ t, exec (.call nnn) s = .next t ∧ t.pc = nnn
          ∧ t.stack.map (·.toNat) = s.stack.map (·.toNat) ++ [s.pc.toNat + 2] ∧ s.keepsAllBut [.stack, .pc] t)
    ∧ (4096 ≤ s.pc.toNat + 2 →
        ∃ t, exec (.call nnn) s = .next t ∧ s.onlyFaulted .memoryAccess (some (wordTNNN 0x2#4 nnn)) t)
    ∧ (s.pc.toNat + 2 < 4096 → 4096 ≤ s.stack.length →
        ∃ t, exec (.call nnn) s = .next t ∧ s.onlyFaulted .undefinedBehaviour (some (wordTNNN 0x2#4 nnn)) t)

/-- R103: `00EE` goes to the last pushed address, with no additional 2; an empty stack raises. -/
def Obligations.ReturnPopsTheStack : Prop :=
  decode 0x00EE#16 = .ok .ret
    ∧ (∀ (s : State) (rest : List Addr) (a : Addr), s.stack = rest ++ [a] →
        ∃ t, exec .ret s = .next t ∧ t.pc = a ∧ t.stack = rest ∧ s.keepsAllBut [.stack, .pc] t)
    ∧ ∀ s : State, s.stack = [] →
        ∃ t, exec .ret s = .next t ∧ s.onlyFaulted .stackUnderflow (some 0x00EE#16) t

/-- R29, R30: a return from the state a call left, or from any later state with the same stack, resumes after the call
with the stack as it was. -/
def Obligations.CallThenReturnResumesAfterTheCall : Prop :=
  ∀ (nnn : Addr) (s t u : State), s.pc.toNat + 2 < 4096 → s.stack.length < 4096 → exec (.call nnn) s = .next t →
    u.stack = t.stack → ∃ v, exec .ret u = .next v ∧ v.pc.toNat = s.pc.toNat + 2 ∧ v.stack = s.stack

/-- R106 to R109: the register skips, and the words of their patterns that are illegal. -/
def Obligations.RegisterSkipsAddFourOrTwo : Prop :=
  ∀ (x y : Reg) (nn : Byte) (s : State),
    (decode (wordTXNN 0x3#4 x nn) = .ok (.seImm x nn)
      ∧ ∃ t, exec (.seImm x nn) s = .next t ∧ s.onlyMovedPc (s.pc.toNat + if s.readReg x = nn then 4 else 2) t)
    ∧ (decode (wordTXNN 0x4#4 x nn) = .ok (.sneImm x nn)
      ∧ ∃ t, exec (.sneImm x nn) s = .next t ∧ s.onlyMovedPc (s.pc.toNat + if s.readReg x = nn then 2 else 4) t)
    ∧ (decode (wordTXYN 0x5#4 x y 0#4) = .ok (.seReg x y)
      ∧ ∃ t, exec (.seReg x y) s = .next t
          ∧ s.onlyMovedPc (s.pc.toNat + if s.readReg x = s.readReg y then 4 else 2) t)
    ∧ (decode (wordTXYN 0x9#4 x y 0#4) = .ok (.sneReg x y)
      ∧ ∃ t, exec (.sneReg x y) s = .next t
          ∧ s.onlyMovedPc (s.pc.toNat + if s.readReg x = s.readReg y then 2 else 4) t)
    ∧ ∀ n : Nibble, n ≠ 0#4 →
        decode (wordTXYN 0x5#4 x y n) = .error (.illegal .p5XYN)
          ∧ decode (wordTXYN 0x9#4 x y n) = .error (.illegal .p9XYN)

/-- R161, R162: the key skips compare the held key with the whole byte; no key, no skip in either (for `EXA1`
the spec's decision D18). -/
def Obligations.KeySkipsReadTheHeldKey : Prop :=
  ∀ (x : Reg) (s : State),
    (decode (wordTXNN 0xE#4 x 0x9E#8) = .ok (.skp x)
      ∧ ∃ t, exec (.skp x) s = .next t
          ∧ s.onlyMovedPc (s.pc.toNat + if s.key.map (·.toNat) = some (s.readReg x).toNat then 4 else 2) t)
    ∧ decode (wordTXNN 0xE#4 x 0xA1#8) = .ok (.sknp x)
      ∧ ∃ t, exec (.sknp x) s = .next t
          ∧ s.onlyMovedPc
              (s.pc.toNat + if s.key ≠ none ∧ s.key.map (·.toNat) ≠ some (s.readReg x).toNat then 4 else 2) t

/-! ### Loads, arithmetic and logic -/

/-- R122, R124 to R127: loads and bitwise instructions write `Vx` and no flag. -/
def Obligations.LoadsAndLogicWriteOnlyVx : Prop :=
  ∀ (x y : Reg) (nn : Byte) (s : State),
    (decode (wordTXNN 0x6#4 x nn) = .ok (.ldImm x nn)
      ∧ ∃ t, exec (.ldImm x nn) s = .next t ∧ s.onlyWroteReg x nn.toNat t)
    ∧ (decode (wordTXYN 0x8#4 x y 0x0#4) = .ok (.ldReg x y)
      ∧ ∃ t, exec (.ldReg x y) s = .next t ∧ s.onlyWroteReg x (s.readReg y).toNat t)
    ∧ (decode (wordTXYN 0x8#4 x y 0x1#4) = .ok (.orReg x y)
      ∧ ∃ t, exec (.orReg x y) s = .next t ∧ s.onlyWroteReg x ((s.readReg x).toNat ||| (s.readReg y).toNat) t)
    ∧ (decode (wordTXYN 0x8#4 x y 0x2#4) = .ok (.andReg x y)
      ∧ ∃ t, exec (.andReg x y) s = .next t ∧ s.onlyWroteReg x ((s.readReg x).toNat &&& (s.readReg y).toNat) t)
    ∧ decode (wordTXYN 0x8#4 x y 0x3#4) = .ok (.xorReg x y)
      ∧ ∃ t, exec (.xorReg x y) s = .next t ∧ s.onlyWroteReg x ((s.readReg x).toNat ^^^ (s.readReg y).toNat) t

/-- R123: `7XNN` wraps and records no carry: VF changes only as the destination. -/
def Obligations.AddImmediateWrapsWithoutFlag : Prop :=
  ∀ (x : Reg) (nn : Byte) (s : State),
    decode (wordTXNN 0x7#4 x nn) = .ok (.addImm x nn)
      ∧ ∃ t, exec (.addImm x nn) s = .next t ∧ s.onlyWroteReg x (((s.readReg x).toNat + nn.toNat) % 256) t

/-- R128: `8XY4`, the flag first, then the sum. -/
def Obligations.AddWritesCarryThenSum : Prop :=
  ∀ (x y : Reg) (s : State),
    decode (wordTXYN 0x8#4 x y 0x4#4) = .ok (.addReg x y)
      ∧ ∃ t, exec (.addReg x y) s = .next t
          ∧ s.aluOutcome x y (if (s.readReg x).toNat + (s.readReg y).toNat > 255 then 1 else 0)
              (fun a b => (a + b) % 256) t

/-- R129: `8XY5`, the no-borrow flag first, then the difference. -/
def Obligations.SubWritesNoBorrowThenDifference : Prop :=
  ∀ (x y : Reg) (s : State),
    decode (wordTXYN 0x8#4 x y 0x5#4) = .ok (.sub x y)
      ∧ ∃ t, exec (.sub x y) s = .next t
          ∧ s.aluOutcome x y (if (s.readReg x).toNat ≥ (s.readReg y).toNat then 1 else 0)
              (fun a b => (256 + a - b) % 256) t

/-- R130: `8XY6`, bit 0 first, then `Vx` shifted right by the count `Vy`; 0 for a count of 8 or more (the
spec's decisions D6 and D19, log 11). -/
def Obligations.ShiftRightWritesBitZeroThenQuotient : Prop :=
  ∀ (x y : Reg) (s : State),
    decode (wordTXYN 0x8#4 x y 0x6#4) = .ok (.shr x y)
      ∧ ∃ t, exec (.shr x y) s = .next t
          ∧ s.aluOutcome x y ((s.readReg x).toNat % 2) (fun a b => a / 2 ^ b) t

/-- R131: `8XY7`, the no-borrow flag first, then `Vy - Vx`. -/
def Obligations.SubnWritesNoBorrowThenDifference : Prop :=
  ∀ (x y : Reg) (s : State),
    decode (wordTXYN 0x8#4 x y 0x7#4) = .ok (.subn x y)
      ∧ ∃ t, exec (.subn x y) s = .next t
          ∧ s.aluOutcome x y (if (s.readReg y).toNat ≥ (s.readReg x).toNat then 1 else 0)
              (fun a b => (256 + b - a) % 256) t

/-- R132: `8XYE`, bit 7 first, then `Vx` shifted left by the count `Vy`; 0 for a count of 8 or more (the
spec's decision D6, log 11). -/
def Obligations.ShiftLeftWritesBitSevenThenProduct : Prop :=
  ∀ (x y : Reg) (s : State),
    decode (wordTXYN 0x8#4 x y 0xE#4) = .ok (.shl x y)
      ∧ ∃ t, exec (.shl x y) s = .next t
          ∧ s.aluOutcome x y ((s.readReg x).toNat / 128) (fun a b => a * 2 ^ b % 256) t

/-- R121: both readings of `FLAG_ALIAS`, for any flag and result; the flag is computed from the operands as they were,
SEQUENTIAL re-reads the registers after the flag write, and without VF among the operands the readings agree (that the
parameter is open is the spec's decision D5). -/
def Obligations.FlagAliasReadings : Prop :=
  ∀ (x y : Reg) (flag result : Byte → Byte → Byte) (s : State),
    let a := s.readReg x
    let b := s.readReg y
    let u := s.writeReg 0xF#4 (flag a b)
    aluWithFlag .snapshot x y flag result s = u.writeReg x (result a b)
      ∧ aluWithFlag .sequential x y flag result s = u.writeReg x (result (u.readReg x) (u.readReg y))
      ∧ (x ≠ 0xF#4 → y ≠ 0xF#4 →
          aluWithFlag .snapshot x y flag result s = aluWithFlag .sequential x y flag result s)

/-- R133: `CXNN` writes a drawn byte masked by `NN`. That the byte is `Config.rng` of the draw counter is the model's form
of "any of 0..255" (log 4); nothing here rests on its value. -/
def Obligations.RandomByteIsDrawnAndMasked : Prop :=
  ∀ (x : Reg) (nn : Byte) (s : State),
    decode (wordTXNN 0xC#4 x nn) = .ok (.rnd x nn)
      ∧ ∃ t, exec (.rnd x nn) s = .next t
          ∧ t.readReg x = Config.rng s.draws &&& nn ∧ t.draws = s.draws + 1
          ∧ s.keepsRegsBut (· = x) t ∧ s.pcAdvancedBy 2 t ∧ s.keepsAllBut [.regs, .draws, .pc] t

/-! ### Index register and memory -/

/-- R140: `ANNN`. -/
def Obligations.LoadIndexSetsI : Prop :=
  ∀ (nnn : Addr) (s : State),
    decode (wordTNNN 0xA#4 nnn) = .ok (.ldI nnn)
      ∧ ∃ t, exec (.ldI nnn) s = .next t ∧ t.i.toNat = nnn.toNat ∧ s.pcAdvancedBy 2 t ∧ s.keepsAllBut [.index, .pc] t

/-- R141: `FX1E` adds without wrap or flag up to 0x1000 and raises Undefined above (the spec's decision D8). -/
def Obligations.AddToIndexRaisesAboveMemorySize : Prop :=
  ∀ (x : Reg) (s : State),
    decode (wordTXNN 0xF#4 x 0x1E#8) = .ok (.addI x)
    ∧ (s.i.toNat + (s.readReg x).toNat ≤ 4096 →
        ∃ t, exec (.addI x) s = .next t ∧ t.i.toNat = s.i.toNat + (s.readReg x).toNat
          ∧ s.pcAdvancedBy 2 t ∧ s.keepsAllBut [.index, .pc] t)
    ∧ (4096 < s.i.toNat + (s.readReg x).toNat →
        ∃ t, exec (.addI x) s = .next t
          ∧ s.onlyFaulted .undefinedBehaviour (some (wordTXNN 0xF#4 x 0x1E#8)) t)

/-- R142: `FX29` gives the glyph's address for a digit and raises Undefined for any other value (the spec's decision D7). -/
def Obligations.GlyphAddressForDigitsOnly : Prop :=
  ∀ (x : Reg) (s : State),
    decode (wordTXNN 0xF#4 x 0x29#8) = .ok (.ldF x)
    ∧ ((s.readReg x).toNat ≤ 15 →
        ∃ t, exec (.ldF x) s = .next t ∧ t.i.toNat = 0x050 + 5 * (s.readReg x).toNat
          ∧ s.pcAdvancedBy 2 t ∧ s.keepsAllBut [.index, .pc] t)
    ∧ (15 < (s.readReg x).toNat →
        ∃ t, exec (.ldF x) s = .next t
          ∧ s.onlyFaulted .undefinedBehaviour (some (wordTXNN 0xF#4 x 0x29#8)) t)

/-- R143: `FX33` stores three decimal digits from `I` on, or raises and stores nothing. -/
def Obligations.DecimalDigitsAreStored : Prop :=
  ∀ (x : Reg) (s : State), s.mem.wf = true →
    decode (wordTXNN 0xF#4 x 0x33#8) = .ok (.ldB x)
    ∧ (s.i.toNat + 2 < 4096 →
        ∃ t, exec (.ldB x) s = .next t
          ∧ (t.readByte s.i.toNat).toNat = (s.readReg x).toNat / 100
          ∧ (t.readByte (s.i.toNat + 1)).toNat = (s.readReg x).toNat / 10 % 10
          ∧ (t.readByte (s.i.toNat + 2)).toNat = (s.readReg x).toNat % 10
          ∧ (∀ a, a < s.i.toNat ∨ s.i.toNat + 2 < a → t.readByte a = s.readByte a)
          ∧ s.pcAdvancedBy 2 t ∧ s.keepsAllBut [.mem, .pc] t)
    ∧ (4096 ≤ s.i.toNat + 2 →
        ∃ t, exec (.ldB x) s = .next t ∧ s.onlyFaulted .memoryAccess (some (wordTXNN 0xF#4 x 0x33#8)) t)

/-- R144: `FX55` stores `V0..Vx` from `I` on and advances `I` by `X + 1`, or raises and changes nothing. -/
def Obligations.RegistersAreSavedAscending : Prop :=
  ∀ (x : Reg) (s : State), s.mem.wf = true →
    decode (wordTXNN 0xF#4 x 0x55#8) = .ok (.ldMemVx x)
    ∧ (s.i.toNat + x.toNat < 4096 →
        ∃ t, exec (.ldMemVx x) s = .next t
          ∧ (∀ r : Reg, r.toNat ≤ x.toNat → t.readByte (s.i.toNat + r.toNat) = s.readReg r)
          ∧ (∀ a, a < s.i.toNat ∨ s.i.toNat + x.toNat < a → t.readByte a = s.readByte a)
          ∧ t.i.toNat = s.i.toNat + x.toNat + 1 ∧ s.pcAdvancedBy 2 t ∧ s.keepsAllBut [.mem, .index, .pc] t)
    ∧ (4096 ≤ s.i.toNat + x.toNat →
        ∃ t, exec (.ldMemVx x) s = .next t ∧ s.onlyFaulted .memoryAccess (some (wordTXNN 0xF#4 x 0x55#8)) t)

/-- R145: `FX65` loads `V0..Vx` from `I` on and advances `I` by `X + 1`, or raises and changes nothing. -/
def Obligations.RegistersAreLoadedAscending : Prop :=
  ∀ (x : Reg) (s : State),
    decode (wordTXNN 0xF#4 x 0x65#8) = .ok (.ldVxMem x)
    ∧ (s.i.toNat + x.toNat < 4096 →
        ∃ t, exec (.ldVxMem x) s = .next t
          ∧ (∀ r : Reg, r.toNat ≤ x.toNat → t.readReg r = s.readByte (s.i.toNat + r.toNat))
          ∧ s.keepsRegsBut (·.toNat ≤ x.toNat) t
          ∧ t.i.toNat = s.i.toNat + x.toNat + 1 ∧ s.pcAdvancedBy 2 t ∧ s.keepsAllBut [.regs, .index, .pc] t)
    ∧ (4096 ≤ s.i.toNat + x.toNat →
        ∃ t, exec (.ldVxMem x) s = .next t ∧ s.onlyFaulted .memoryAccess (some (wordTXNN 0xF#4 x 0x65#8)) t)

/-- What `FX55` saved, `FX65` restores, from any later state with that memory and with `I` set back (R144, R145). -/
def Obligations.SavedRegistersAreRestored : Prop :=
  ∀ (x : Reg) (s t u : State), s.mem.wf = true → s.i.toNat + x.toNat < 4096 → exec (.ldMemVx x) s = .next t →
    u.mem = t.mem → u.i = s.i →
    ∃ v, exec (.ldVxMem x) u = .next v ∧ ∀ r : Reg, r.toNat ≤ x.toNat → v.readReg r = s.readReg r

/-! ### Display -/

/-- R150: `00E0` clears every pixel. -/
def Obligations.ClearScreenClearsEveryPixel : Prop :=
  decode 0x00E0#16 = .ok .cls
    ∧ ∀ s : State, ∃ t, exec .cls s = .next t ∧ (∀ px py, t.fb.pixel px py = false)
        ∧ s.pcAdvancedBy 2 t ∧ s.keepsAllBut [.fb, .pc] t

/-- R151, R152: `DXYN` XORs the sprite's bits, each pixel wrapping separately; VF tells whether a pixel went from 1 to 0;
the bound is on `I + N`, before any effect (the spec's decision D20, conflict C4). -/
def Obligations.DrawXorsTheSpriteAndReportsCollision : Prop :=
  ∀ (x y : Reg) (n : Nibble) (s : State),
    decode (wordTXYN 0xD#4 x y n) = .ok (.drw x y n)
    ∧ (s.i.toNat + n.toNat < 4096 →
        let rows := (List.range n.toNat).map fun k => s.readByte (s.i.toNat + k)
        let bit := spriteBit rows (s.readReg x).toNat (s.readReg y).toNat
        ∃ t, exec (.drw x y n) s = .next t
          ∧ (∀ px py, px < 64 → py < 32 → t.fb.pixel px py = (s.fb.pixel px py ^^ bit px py))
          ∧ (t.readReg 0xF#4 = 1#8 ↔ ∃ px py, px < 64 ∧ py < 32 ∧ s.fb.pixel px py = true ∧ bit px py = true)
          ∧ (t.readReg 0xF#4 = 0#8 ∨ t.readReg 0xF#4 = 1#8)
          ∧ s.keepsRegsBut (· = 0xF#4) t ∧ s.pcAdvancedBy 2 t ∧ s.keepsAllBut [.regs, .fb, .pc] t)
    ∧ (4096 ≤ s.i.toNat + n.toNat →
        ∃ t, exec (.drw x y n) s = .next t ∧ s.onlyFaulted .memoryAccess (some (wordTXYN 0xD#4 x y n)) t)

/-- Drawing the same sprite twice at the same place restores the framebuffer, and the second draw sets VF if the sprite has
a 1 bit on a pixel that was clear (R151; log 16: its corner case says "any 1 bit", which its pseudocode does not give). -/
def Obligations.DrawingTwiceRestoresTheFramebuffer : Prop :=
  ∀ (x y : Reg) (n : Nibble) (s t u : State), x ≠ 0xF#4 → y ≠ 0xF#4 → s.i.toNat + n.toNat < 4096 →
    exec (.drw x y n) s = .next t → exec (.drw x y n) t = .next u →
    u.fb = s.fb
      ∧ ∀ px py, px < 64 → py < 32 → s.fb.pixel px py = false →
          spriteBit ((List.range n.toNat).map fun k => s.readByte (s.i.toNat + k))
            (s.readReg x).toNat (s.readReg y).toNat px py = true →
          u.readReg 0xF#4 = 1#8

/-! ### Timers and keys -/

/-- R163, R166, R167: the timer instructions; `ST` is seen as `SOUND_ACTIVE`; and of all host
operations only a tick, a reset, a load (which resets) and a step that runs `FX15` change `DT`. -/
def Obligations.TimerInstructionsMoveOneByte : Prop :=
  ∀ (x : Reg) (s : State),
    (decode (wordTXNN 0xF#4 x 0x07#8) = .ok (.ldVxDt x)
      ∧ ∃ t, exec (.ldVxDt x) s = .next t ∧ s.onlyWroteReg x s.dt.toNat t)
    ∧ (decode (wordTXNN 0xF#4 x 0x15#8) = .ok (.ldDtVx x)
      ∧ ∃ t, exec (.ldDtVx x) s = .next t ∧ t.dt = s.readReg x ∧ s.pcAdvancedBy 2 t ∧ s.keepsAllBut [.dt, .pc] t)
    ∧ (decode (wordTXNN 0xF#4 x 0x18#8) = .ok (.ldStVx x)
      ∧ ∃ t, exec (.ldStVx x) s = .next t ∧ t.st = s.readReg x ∧ (t.soundActive = true ↔ (s.readReg x).toNat ≠ 0)
          ∧ s.pcAdvancedBy 2 t ∧ s.keepsAllBut [.st, .pc] t)
    ∧ ∀ (op : HostOp) (t : State), op.notStateMut → op.apply s = .next t → t.dt ≠ s.dt →
        op = .tickTimers ∨ op = .reset ∨ (∃ bytes, op = .loadProgram bytes)
          ∨ (op = .step ∧ s.mode = .running ∧ ∃ y, s.fetchWord = .ok (encode (.ldDtVx y)))

/-- R164: `FX0A` parks, with a key held or not (the spec's decision D17); `PC` is not advanced and no register is written. -/
def Obligations.KeyWaitAlwaysParks : Prop :=
  ∀ (x : Reg) (s : State),
    decode (wordTXNN 0xF#4 x 0x0A#8) = .ok (.ldVxK x)
      ∧ ∃ t, exec (.ldVxK x) s = .next t ∧ t.mode = .waitForKey ∧ t.waitReg = x
          ∧ s.keepsAllBut [.mode, .waitReg] t

/-! ### Host operations -/

/-- R180: a tick decrements each non-zero timer, in every mode and with a fault recorded (the spec's decision D29), and
changes nothing else. -/
def Obligations.TickDecrementsNonZeroTimers : Prop :=
  ∀ s : State, ∃ t, HostOp.tickTimers.apply s = .next t
    ∧ (s.dt = 0#8 → t.dt = 0#8) ∧ (s.dt ≠ 0#8 → t.dt.toNat + 1 = s.dt.toNat)
    ∧ (s.st = 0#8 → t.st = 0#8) ∧ (s.st ≠ 0#8 → t.st.toNat + 1 = s.st.toNat)
    ∧ s.keepsAllBut [.dt, .st] t

/-- R183: the key operations write the one key slot and nothing else (4-bit keys are the spec's decision D30). -/
def Obligations.KeyOperationsWriteTheKeySlot : Prop :=
  ∀ (s : State) (k : Nibble),
    (∃ t, (HostOp.keyDown k).apply s = .next t ∧ t.key = some k ∧ s.keepsAllBut [.key] t)
      ∧ ∃ t, HostOp.keyUp.apply s = .next t ∧ t.key = none ∧ s.keepsAllBut [.key] t

/-- R200, with the values of spec/10_state.md R40: what `reset()` leaves, from any state (for `FB`, `KEY`, `WAIT_REG` and
`FAULT` the spec's decisions D13 to D15). -/
def Obligations.ResetLeavesTheResetState : Prop :=
  ∀ s : State, ∃ t, HostOp.reset.apply s = .next t
    ∧ (∀ a, t.readByte a = if 0x050 ≤ a ∧ a < 0x0A0 then Config.font (a - 0x050) else 0#8)
    ∧ (∀ r, t.readReg r = 0#8) ∧ t.pc = 0#12 ∧ t.i = 0#16 ∧ t.stack = [] ∧ t.dt = 0#8 ∧ t.st = 0#8
    ∧ t.mode = .running ∧ t.waitReg = 0#4 ∧ t.fault = none ∧ t.key = s.key
    ∧ (Config.resetClearsFb = true → ∀ px py, t.fb.pixel px py = false)
    ∧ (Config.resetClearsFb = false → t.fb = s.fb)

/-- R201: power-on is the reset state in mode INIT with `FB` clear and no key; `reset()` leaves INIT for the state the model
starts from (log 6), and a step before that raises UnimplementedState (the spec's decisions D11, D12). -/
def Obligations.PowerOnIsTheResetStateInInit : Prop :=
  State.powerOn = { State.powerOn.resetOp with mode := .init }
    ∧ State.powerOn.mode = .init ∧ State.powerOn.key = none ∧ (∀ px py, State.powerOn.fb.pixel px py = false)
    ∧ State.powerOn.resetOp = State.reset
    ∧ ∃ t, step State.powerOn = .next t ∧ State.powerOn.onlyFaulted .unimplementedState none t

/-- R203: a program that fits is copied to 0x200 after a reset; one that does not is reported as MemoryAccess and changes
nothing but `FAULT` (the spec's decision D28; over a standing record, log 8). -/
def Obligations.LoadProgramCopiesToTheLoadOffset : Prop :=
  ∀ (s : State) (bytes : List Byte),
    (bytes.length ≤ 3584 →
      ∃ t, (HostOp.loadProgram bytes).apply s = .next t ∧ (HostOp.loadProgram bytes).reportedFault s = none
        ∧ (∀ k, k < bytes.length → t.readByte (0x200 + k) = bytes.getD k 0)
        ∧ (∀ a, a < 0x200 ∨ 0x200 + bytes.length ≤ a → t.readByte a = s.resetOp.readByte a)
        ∧ t.pc = 0x200#12 ∧ s.resetOp.keepsAllBut [.mem, .pc] t)
    ∧ (3584 < bytes.length →
      (HostOp.loadProgram bytes).reportedFault s = some .memoryAccess
        ∧ ∃ t, (HostOp.loadProgram bytes).apply s = .next t ∧ s.onlyFaulted .memoryAccess none t)

/-- R25, R188: a host register write is reduced to 8 bits; an index outside `[0, 16)` is reported as RegisterAccess and
writes nothing but `FAULT`, with no word (over a standing record, log 8); no step ever records that kind. -/
def Obligations.RegisterAccessComesFromTheHostOnly : Prop :=
  (∀ (s : State) (r : Reg) (v : Nat),
      (s.stateMut (.reg r.toNat v)).2 = none
        ∧ ((s.stateMut (.reg r.toNat v)).1.readReg r).toNat = v % 256
        ∧ s.keepsRegsBut (· = r) (s.stateMut (.reg r.toNat v)).1
        ∧ s.keepsAllBut [.regs] (s.stateMut (.reg r.toNat v)).1)
    ∧ (∀ (s : State) (r v : Nat), 16 ≤ r →
      (s.stateMut (.reg r v)).2 = some .registerAccess ∧ s.onlyFaulted .registerAccess none (s.stateMut (.reg r v)).1)
    ∧ ∀ (s t : State) (r : FaultRecord), s.fault = none → step s = .next t → t.fault = some r →
        r.kind ≠ .registerAccess

/-! ### Whole-machine rules -/

/-- R9: an instruction writes the elements its rule names and nothing else. -/
def Obligations.InstructionsWriteOnlyTheirElements : Prop :=
  ∀ (i : Instr) (s t : State), exec i s = .next t → s.keepsAllBut (mayWrite i) t

/-- R23: only a destination register changes, and VF only where it is one or the instruction is one of the six that write
it as a flag (that the result, not the flag, is what remains in VF is the spec's decision D5; the results say it). -/
def Obligations.OnlyDestinationsAndFlagsChange : Prop :=
  ∀ (i : Instr) (s t : State) (r : Reg), exec i s = .next t → ¬ mayWriteReg i r → t.readReg r = s.readReg r

/-- R51: no instruction but `FX33` and `FX55` changes a byte of memory, and those only in the range their rule gives. -/
def Obligations.StoresStayInTheirRange : Prop :=
  ∀ (i : Instr) (s t : State) (a : Nat), s.mem.wf = true → exec i s = .next t → ¬ mayStoreTo s i a →
    t.readByte a = s.readByte a

/-- R35: the transitions of `MODE`, and no others (the spec's decisions D11, D12). -/
def Obligations.ModeChangesOnlyByItsTransitions : Prop :=
  ∀ (op : HostOp) (s t : State), op.notStateMut → op.apply s = .next t → t.mode ≠ s.mode →
    (t.mode = .running ∧ (op = .reset ∨ ∃ bytes, op = .loadProgram bytes))
      ∨ (op = .step ∧ s.mode = .running ∧ t.mode = .waitForKey ∧ s.fetchWord = .ok (encode (.ldVxK t.waitReg)))
      ∨ (op = .step ∧ s.mode = .waitForKey ∧ t.mode = .running ∧ s.key ≠ none)

/-- R187, R104: at a jump to itself every later step leaves the whole state unchanged, so a run of any length is safe. -/
def Obligations.SelfJumpStaysForEver : Prop :=
  ∀ (s : State) (k : Nat), s.fault = none → s.mode = .running → s.fetchWord = .ok (encode (.jp s.pc)) →
    Host.Core.run core k s = .next s ∧ s.runsSafely k

/-- R31: no instruction reads `ST`: two states that differ only there step to states that differ at most there. -/
def Obligations.SoundTimerIsNeverRead : Prop :=
  ∀ (s t : State) (v : Byte), step s = .next t →
    ∃ u, step { s with st := v } = .next u ∧ { u with st := 0#8 } = { t with st := 0#8 }

/-- R36: of the instructions only `EX9E` and `EXA1` read `KEY`, and none writes it. -/
def Obligations.KeyIsReadOnlyByTheKeySkips : Prop :=
  (∀ (i : Instr) (s t : State), exec i s = .next t → t.key = s.key)
    ∧ ∀ (i : Instr) (s : State) (k : Option Nibble), (∀ x, i ≠ .skp x ∧ i ≠ .sknp x) →
      ∃ t, exec i s = .next t ∧ exec i { s with key := k } = .next { t with key := k }
end

