-- ==== Sys2Proof/Laws/Decode.lean ====
section
/-! SUPPORT. Words as numbers: what concatenation, the fields and the byte halves of a word are, so that facts about
encodings come down to arithmetic. -/

namespace Sys2Proof

/-- Concatenation as a number. -/
theorem toNat_append_eq {n m : Nat} (a : BitVec n) (b : BitVec m) : (a ++ b).toNat = a.toNat * 2 ^ m + b.toNat := by
  rw [BitVec.toNat_append, ← Nat.shiftLeft_add_eq_or_of_lt b.isLt, Nat.shiftLeft_eq]

theorem wordTNNN_toNat (t : Nibble) (nnn : Addr) : (wordTNNN t nnn).toNat = t.toNat * 4096 + nnn.toNat :=
  toNat_append_eq t nnn

theorem wordTXNN_toNat (t : Nibble) (x : Reg) (nn : Byte) :
    (wordTXNN t x nn).toNat = t.toNat * 4096 + x.toNat * 256 + nn.toNat := by
  rw [show (wordTXNN t x nn).toNat = (t ++ x).toNat * 2 ^ 8 + nn.toNat from toNat_append_eq (t ++ x) nn, toNat_append_eq]
  omega

theorem wordTXYN_toNat (t : Nibble) (x y : Reg) (n : Nibble) :
    (wordTXYN t x y n).toNat = t.toNat * 4096 + x.toNat * 256 + y.toNat * 16 + n.toNat := by
  rw [show (wordTXYN t x y n).toNat = (t ++ x ++ y).toNat * 2 ^ 4 + n.toNat from toNat_append_eq (t ++ x ++ y) n,
    toNat_append_eq, toNat_append_eq]
  omega

theorem wordOfBytes_toNat (hi lo : Byte) : (wordOfBytes hi lo).toNat = hi.toNat * 256 + lo.toNat :=
  toNat_append_eq hi lo

variable (w : Word)

theorem fieldT_toNat : (fieldT w).toNat = w.toNat / 4096 := by
  have := w.isLt
  simp [fieldT, BitVec.extractLsb'_toNat, Nat.shiftRight_eq_div_pow]; omega

theorem fieldX_toNat : (fieldX w).toNat = w.toNat / 256 % 16 := by
  simp [fieldX, BitVec.extractLsb'_toNat, Nat.shiftRight_eq_div_pow]

theorem fieldY_toNat : (fieldY w).toNat = w.toNat / 16 % 16 := by
  simp [fieldY, BitVec.extractLsb'_toNat, Nat.shiftRight_eq_div_pow]

theorem fieldN_toNat : (fieldN w).toNat = w.toNat % 16 := by
  simp [fieldN, BitVec.extractLsb'_toNat]

theorem fieldNN_toNat : (fieldNN w).toNat = w.toNat % 256 := by
  simp [fieldNN, BitVec.extractLsb'_toNat]

theorem fieldNNN_toNat : (fieldNNN w).toNat = w.toNat % 4096 := by
  simp [fieldNNN, BitVec.extractLsb'_toNat]

/-- A word is its two bytes in memory order (spec/20_memory.md R54). -/
theorem wordOfBytes_high_low : wordOfBytes (highByte w) (lowByte w) = w := by
  apply BitVec.eq_of_toNat_eq
  have := w.isLt
  rw [wordOfBytes_toNat]
  simp [highByte, lowByte, BitVec.extractLsb'_toNat, Nat.shiftRight_eq_div_pow]; omega

end Sys2Proof
end

