-- ==== Sys2Proof/Laws/State.lean ====
section
/-! SUPPORT. One lemma per field per update of State, each true by unfolding, so that no later proof unfolds a record
update. -/

namespace Sys2Proof.Machine.State

variable (s : State)

@[simp] theorem raise_mem (k : FaultKind) (w : Option Word) : (s.raise k w).mem = s.mem := rfl
@[simp] theorem raise_v (k : FaultKind) (w : Option Word) : (s.raise k w).v = s.v := rfl
@[simp] theorem raise_pc (k : FaultKind) (w : Option Word) : (s.raise k w).pc = s.pc := rfl
@[simp] theorem raise_i (k : FaultKind) (w : Option Word) : (s.raise k w).i = s.i := rfl
@[simp] theorem raise_stack (k : FaultKind) (w : Option Word) : (s.raise k w).stack = s.stack := rfl
@[simp] theorem raise_dt (k : FaultKind) (w : Option Word) : (s.raise k w).dt = s.dt := rfl
@[simp] theorem raise_st (k : FaultKind) (w : Option Word) : (s.raise k w).st = s.st := rfl
@[simp] theorem raise_fb (k : FaultKind) (w : Option Word) : (s.raise k w).fb = s.fb := rfl
@[simp] theorem raise_mode (k : FaultKind) (w : Option Word) : (s.raise k w).mode = s.mode := rfl
@[simp] theorem raise_key (k : FaultKind) (w : Option Word) : (s.raise k w).key = s.key := rfl
@[simp] theorem raise_waitReg (k : FaultKind) (w : Option Word) : (s.raise k w).waitReg = s.waitReg := rfl
@[simp] theorem raise_fault (k : FaultKind) (w : Option Word) : (s.raise k w).fault = some ⟨k, s.pc, w⟩ := rfl
@[simp] theorem raise_draws (k : FaultKind) (w : Option Word) : (s.raise k w).draws = s.draws := rfl

@[simp] theorem writeReg_mem (x : Reg) (b : Byte) : (s.writeReg x b).mem = s.mem := rfl
@[simp] theorem writeReg_v (x : Reg) (b : Byte) : (s.writeReg x b).v = s.v.set x.toNat b x.isLt := rfl
@[simp] theorem writeReg_pc (x : Reg) (b : Byte) : (s.writeReg x b).pc = s.pc := rfl
@[simp] theorem writeReg_i (x : Reg) (b : Byte) : (s.writeReg x b).i = s.i := rfl
@[simp] theorem writeReg_stack (x : Reg) (b : Byte) : (s.writeReg x b).stack = s.stack := rfl
@[simp] theorem writeReg_dt (x : Reg) (b : Byte) : (s.writeReg x b).dt = s.dt := rfl
@[simp] theorem writeReg_st (x : Reg) (b : Byte) : (s.writeReg x b).st = s.st := rfl
@[simp] theorem writeReg_fb (x : Reg) (b : Byte) : (s.writeReg x b).fb = s.fb := rfl
@[simp] theorem writeReg_mode (x : Reg) (b : Byte) : (s.writeReg x b).mode = s.mode := rfl
@[simp] theorem writeReg_key (x : Reg) (b : Byte) : (s.writeReg x b).key = s.key := rfl
@[simp] theorem writeReg_waitReg (x : Reg) (b : Byte) : (s.writeReg x b).waitReg = s.waitReg := rfl
@[simp] theorem writeReg_fault (x : Reg) (b : Byte) : (s.writeReg x b).fault = s.fault := rfl
@[simp] theorem writeReg_draws (x : Reg) (b : Byte) : (s.writeReg x b).draws = s.draws := rfl

@[simp] theorem writeFlag_mem (b : Byte) : (s.writeFlag b).mem = s.mem := rfl
@[simp] theorem writeFlag_v (b : Byte) : (s.writeFlag b).v = s.v.set 15 b (by decide) := rfl
@[simp] theorem writeFlag_pc (b : Byte) : (s.writeFlag b).pc = s.pc := rfl
@[simp] theorem writeFlag_i (b : Byte) : (s.writeFlag b).i = s.i := rfl
@[simp] theorem writeFlag_stack (b : Byte) : (s.writeFlag b).stack = s.stack := rfl
@[simp] theorem writeFlag_dt (b : Byte) : (s.writeFlag b).dt = s.dt := rfl
@[simp] theorem writeFlag_st (b : Byte) : (s.writeFlag b).st = s.st := rfl
@[simp] theorem writeFlag_fb (b : Byte) : (s.writeFlag b).fb = s.fb := rfl
@[simp] theorem writeFlag_mode (b : Byte) : (s.writeFlag b).mode = s.mode := rfl
@[simp] theorem writeFlag_key (b : Byte) : (s.writeFlag b).key = s.key := rfl
@[simp] theorem writeFlag_waitReg (b : Byte) : (s.writeFlag b).waitReg = s.waitReg := rfl
@[simp] theorem writeFlag_fault (b : Byte) : (s.writeFlag b).fault = s.fault := rfl
@[simp] theorem writeFlag_draws (b : Byte) : (s.writeFlag b).draws = s.draws := rfl

@[simp] theorem commitPc_mem (n : Nat) : (s.commitPc n).mem = s.mem := rfl
@[simp] theorem commitPc_v (n : Nat) : (s.commitPc n).v = s.v := rfl
@[simp] theorem commitPc_pc (n : Nat) : (s.commitPc n).pc = BitVec.ofNat 12 (n % Config.memSize) := rfl
@[simp] theorem commitPc_i (n : Nat) : (s.commitPc n).i = s.i := rfl
@[simp] theorem commitPc_stack (n : Nat) : (s.commitPc n).stack = s.stack := rfl
@[simp] theorem commitPc_dt (n : Nat) : (s.commitPc n).dt = s.dt := rfl
@[simp] theorem commitPc_st (n : Nat) : (s.commitPc n).st = s.st := rfl
@[simp] theorem commitPc_fb (n : Nat) : (s.commitPc n).fb = s.fb := rfl
@[simp] theorem commitPc_mode (n : Nat) : (s.commitPc n).mode = s.mode := rfl
@[simp] theorem commitPc_key (n : Nat) : (s.commitPc n).key = s.key := rfl
@[simp] theorem commitPc_waitReg (n : Nat) : (s.commitPc n).waitReg = s.waitReg := rfl
@[simp] theorem commitPc_fault (n : Nat) : (s.commitPc n).fault = s.fault := rfl
@[simp] theorem commitPc_draws (n : Nat) : (s.commitPc n).draws = s.draws := rfl

@[simp] theorem setIndex_mem (n : Nat) : (s.setIndex n).mem = s.mem := rfl
@[simp] theorem setIndex_v (n : Nat) : (s.setIndex n).v = s.v := rfl
@[simp] theorem setIndex_pc (n : Nat) : (s.setIndex n).pc = s.pc := rfl
@[simp] theorem setIndex_i (n : Nat) : (s.setIndex n).i = BitVec.ofNat 16 n := rfl
@[simp] theorem setIndex_stack (n : Nat) : (s.setIndex n).stack = s.stack := rfl
@[simp] theorem setIndex_dt (n : Nat) : (s.setIndex n).dt = s.dt := rfl
@[simp] theorem setIndex_st (n : Nat) : (s.setIndex n).st = s.st := rfl
@[simp] theorem setIndex_fb (n : Nat) : (s.setIndex n).fb = s.fb := rfl
@[simp] theorem setIndex_mode (n : Nat) : (s.setIndex n).mode = s.mode := rfl
@[simp] theorem setIndex_key (n : Nat) : (s.setIndex n).key = s.key := rfl
@[simp] theorem setIndex_waitReg (n : Nat) : (s.setIndex n).waitReg = s.waitReg := rfl
@[simp] theorem setIndex_fault (n : Nat) : (s.setIndex n).fault = s.fault := rfl
@[simp] theorem setIndex_draws (n : Nat) : (s.setIndex n).draws = s.draws := rfl

@[simp] theorem setFramebuffer_mem (fb : Framebuffer) : (s.setFramebuffer fb).mem = s.mem := rfl
@[simp] theorem setFramebuffer_v (fb : Framebuffer) : (s.setFramebuffer fb).v = s.v := rfl
@[simp] theorem setFramebuffer_pc (fb : Framebuffer) : (s.setFramebuffer fb).pc = s.pc := rfl
@[simp] theorem setFramebuffer_i (fb : Framebuffer) : (s.setFramebuffer fb).i = s.i := rfl
@[simp] theorem setFramebuffer_stack (fb : Framebuffer) : (s.setFramebuffer fb).stack = s.stack := rfl
@[simp] theorem setFramebuffer_dt (fb : Framebuffer) : (s.setFramebuffer fb).dt = s.dt := rfl
@[simp] theorem setFramebuffer_st (fb : Framebuffer) : (s.setFramebuffer fb).st = s.st := rfl
@[simp] theorem setFramebuffer_fb (fb : Framebuffer) : (s.setFramebuffer fb).fb = fb := rfl
@[simp] theorem setFramebuffer_mode (fb : Framebuffer) : (s.setFramebuffer fb).mode = s.mode := rfl
@[simp] theorem setFramebuffer_key (fb : Framebuffer) : (s.setFramebuffer fb).key = s.key := rfl
@[simp] theorem setFramebuffer_waitReg (fb : Framebuffer) : (s.setFramebuffer fb).waitReg = s.waitReg := rfl
@[simp] theorem setFramebuffer_fault (fb : Framebuffer) : (s.setFramebuffer fb).fault = s.fault := rfl
@[simp] theorem setFramebuffer_draws (fb : Framebuffer) : (s.setFramebuffer fb).draws = s.draws := rfl

@[simp] theorem setMem_mem (m : Memory) : (s.setMem m).mem = m := rfl
@[simp] theorem setMem_v (m : Memory) : (s.setMem m).v = s.v := rfl
@[simp] theorem setMem_pc (m : Memory) : (s.setMem m).pc = s.pc := rfl
@[simp] theorem setMem_i (m : Memory) : (s.setMem m).i = s.i := rfl
@[simp] theorem setMem_stack (m : Memory) : (s.setMem m).stack = s.stack := rfl
@[simp] theorem setMem_dt (m : Memory) : (s.setMem m).dt = s.dt := rfl
@[simp] theorem setMem_st (m : Memory) : (s.setMem m).st = s.st := rfl
@[simp] theorem setMem_fb (m : Memory) : (s.setMem m).fb = s.fb := rfl
@[simp] theorem setMem_mode (m : Memory) : (s.setMem m).mode = s.mode := rfl
@[simp] theorem setMem_key (m : Memory) : (s.setMem m).key = s.key := rfl
@[simp] theorem setMem_waitReg (m : Memory) : (s.setMem m).waitReg = s.waitReg := rfl
@[simp] theorem setMem_fault (m : Memory) : (s.setMem m).fault = s.fault := rfl
@[simp] theorem setMem_draws (m : Memory) : (s.setMem m).draws = s.draws := rfl

@[simp] theorem setStack_mem (k : List Addr) : (s.setStack k).mem = s.mem := rfl
@[simp] theorem setStack_v (k : List Addr) : (s.setStack k).v = s.v := rfl
@[simp] theorem setStack_pc (k : List Addr) : (s.setStack k).pc = s.pc := rfl
@[simp] theorem setStack_i (k : List Addr) : (s.setStack k).i = s.i := rfl
@[simp] theorem setStack_stack (k : List Addr) : (s.setStack k).stack = k := rfl
@[simp] theorem setStack_dt (k : List Addr) : (s.setStack k).dt = s.dt := rfl
@[simp] theorem setStack_st (k : List Addr) : (s.setStack k).st = s.st := rfl
@[simp] theorem setStack_fb (k : List Addr) : (s.setStack k).fb = s.fb := rfl
@[simp] theorem setStack_mode (k : List Addr) : (s.setStack k).mode = s.mode := rfl
@[simp] theorem setStack_key (k : List Addr) : (s.setStack k).key = s.key := rfl
@[simp] theorem setStack_waitReg (k : List Addr) : (s.setStack k).waitReg = s.waitReg := rfl
@[simp] theorem setStack_fault (k : List Addr) : (s.setStack k).fault = s.fault := rfl
@[simp] theorem setStack_draws (k : List Addr) : (s.setStack k).draws = s.draws := rfl

@[simp] theorem setDelayTimer_mem (b : Byte) : (s.setDelayTimer b).mem = s.mem := rfl
@[simp] theorem setDelayTimer_v (b : Byte) : (s.setDelayTimer b).v = s.v := rfl
@[simp] theorem setDelayTimer_pc (b : Byte) : (s.setDelayTimer b).pc = s.pc := rfl
@[simp] theorem setDelayTimer_i (b : Byte) : (s.setDelayTimer b).i = s.i := rfl
@[simp] theorem setDelayTimer_stack (b : Byte) : (s.setDelayTimer b).stack = s.stack := rfl
@[simp] theorem setDelayTimer_dt (b : Byte) : (s.setDelayTimer b).dt = b := rfl
@[simp] theorem setDelayTimer_st (b : Byte) : (s.setDelayTimer b).st = s.st := rfl
@[simp] theorem setDelayTimer_fb (b : Byte) : (s.setDelayTimer b).fb = s.fb := rfl
@[simp] theorem setDelayTimer_mode (b : Byte) : (s.setDelayTimer b).mode = s.mode := rfl
@[simp] theorem setDelayTimer_key (b : Byte) : (s.setDelayTimer b).key = s.key := rfl
@[simp] theorem setDelayTimer_waitReg (b : Byte) : (s.setDelayTimer b).waitReg = s.waitReg := rfl
@[simp] theorem setDelayTimer_fault (b : Byte) : (s.setDelayTimer b).fault = s.fault := rfl
@[simp] theorem setDelayTimer_draws (b : Byte) : (s.setDelayTimer b).draws = s.draws := rfl

@[simp] theorem setSoundTimer_mem (b : Byte) : (s.setSoundTimer b).mem = s.mem := rfl
@[simp] theorem setSoundTimer_v (b : Byte) : (s.setSoundTimer b).v = s.v := rfl
@[simp] theorem setSoundTimer_pc (b : Byte) : (s.setSoundTimer b).pc = s.pc := rfl
@[simp] theorem setSoundTimer_i (b : Byte) : (s.setSoundTimer b).i = s.i := rfl
@[simp] theorem setSoundTimer_stack (b : Byte) : (s.setSoundTimer b).stack = s.stack := rfl
@[simp] theorem setSoundTimer_dt (b : Byte) : (s.setSoundTimer b).dt = s.dt := rfl
@[simp] theorem setSoundTimer_st (b : Byte) : (s.setSoundTimer b).st = b := rfl
@[simp] theorem setSoundTimer_fb (b : Byte) : (s.setSoundTimer b).fb = s.fb := rfl
@[simp] theorem setSoundTimer_mode (b : Byte) : (s.setSoundTimer b).mode = s.mode := rfl
@[simp] theorem setSoundTimer_key (b : Byte) : (s.setSoundTimer b).key = s.key := rfl
@[simp] theorem setSoundTimer_waitReg (b : Byte) : (s.setSoundTimer b).waitReg = s.waitReg := rfl
@[simp] theorem setSoundTimer_fault (b : Byte) : (s.setSoundTimer b).fault = s.fault := rfl
@[simp] theorem setSoundTimer_draws (b : Byte) : (s.setSoundTimer b).draws = s.draws := rfl

@[simp] theorem setMode_mem (m : Mode) : (s.setMode m).mem = s.mem := rfl
@[simp] theorem setMode_v (m : Mode) : (s.setMode m).v = s.v := rfl
@[simp] theorem setMode_pc (m : Mode) : (s.setMode m).pc = s.pc := rfl
@[simp] theorem setMode_i (m : Mode) : (s.setMode m).i = s.i := rfl
@[simp] theorem setMode_stack (m : Mode) : (s.setMode m).stack = s.stack := rfl
@[simp] theorem setMode_dt (m : Mode) : (s.setMode m).dt = s.dt := rfl
@[simp] theorem setMode_st (m : Mode) : (s.setMode m).st = s.st := rfl
@[simp] theorem setMode_fb (m : Mode) : (s.setMode m).fb = s.fb := rfl
@[simp] theorem setMode_mode (m : Mode) : (s.setMode m).mode = m := rfl
@[simp] theorem setMode_key (m : Mode) : (s.setMode m).key = s.key := rfl
@[simp] theorem setMode_waitReg (m : Mode) : (s.setMode m).waitReg = s.waitReg := rfl
@[simp] theorem setMode_fault (m : Mode) : (s.setMode m).fault = s.fault := rfl
@[simp] theorem setMode_draws (m : Mode) : (s.setMode m).draws = s.draws := rfl

@[simp] theorem setWaitReg_mem (x : Reg) : (s.setWaitReg x).mem = s.mem := rfl
@[simp] theorem setWaitReg_v (x : Reg) : (s.setWaitReg x).v = s.v := rfl
@[simp] theorem setWaitReg_pc (x : Reg) : (s.setWaitReg x).pc = s.pc := rfl
@[simp] theorem setWaitReg_i (x : Reg) : (s.setWaitReg x).i = s.i := rfl
@[simp] theorem setWaitReg_stack (x : Reg) : (s.setWaitReg x).stack = s.stack := rfl
@[simp] theorem setWaitReg_dt (x : Reg) : (s.setWaitReg x).dt = s.dt := rfl
@[simp] theorem setWaitReg_st (x : Reg) : (s.setWaitReg x).st = s.st := rfl
@[simp] theorem setWaitReg_fb (x : Reg) : (s.setWaitReg x).fb = s.fb := rfl
@[simp] theorem setWaitReg_mode (x : Reg) : (s.setWaitReg x).mode = s.mode := rfl
@[simp] theorem setWaitReg_key (x : Reg) : (s.setWaitReg x).key = s.key := rfl
@[simp] theorem setWaitReg_waitReg (x : Reg) : (s.setWaitReg x).waitReg = x := rfl
@[simp] theorem setWaitReg_fault (x : Reg) : (s.setWaitReg x).fault = s.fault := rfl
@[simp] theorem setWaitReg_draws (x : Reg) : (s.setWaitReg x).draws = s.draws := rfl

@[simp] theorem drawByte_mem : (s.drawByte.2).mem = s.mem := rfl
@[simp] theorem drawByte_v : (s.drawByte.2).v = s.v := rfl
@[simp] theorem drawByte_pc : (s.drawByte.2).pc = s.pc := rfl
@[simp] theorem drawByte_i : (s.drawByte.2).i = s.i := rfl
@[simp] theorem drawByte_stack : (s.drawByte.2).stack = s.stack := rfl
@[simp] theorem drawByte_dt : (s.drawByte.2).dt = s.dt := rfl
@[simp] theorem drawByte_st : (s.drawByte.2).st = s.st := rfl
@[simp] theorem drawByte_fb : (s.drawByte.2).fb = s.fb := rfl
@[simp] theorem drawByte_mode : (s.drawByte.2).mode = s.mode := rfl
@[simp] theorem drawByte_key : (s.drawByte.2).key = s.key := rfl
@[simp] theorem drawByte_waitReg : (s.drawByte.2).waitReg = s.waitReg := rfl
@[simp] theorem drawByte_fault : (s.drawByte.2).fault = s.fault := rfl
@[simp] theorem drawByte_draws : (s.drawByte.2).draws = s.draws + 1 := rfl

@[simp] theorem tickTimers_mem : (s.tickTimers).mem = s.mem := rfl
@[simp] theorem tickTimers_v : (s.tickTimers).v = s.v := rfl
@[simp] theorem tickTimers_pc : (s.tickTimers).pc = s.pc := rfl
@[simp] theorem tickTimers_i : (s.tickTimers).i = s.i := rfl
@[simp] theorem tickTimers_stack : (s.tickTimers).stack = s.stack := rfl
@[simp] theorem tickTimers_dt : (s.tickTimers).dt = tickTimer s.dt := rfl
@[simp] theorem tickTimers_st : (s.tickTimers).st = tickTimer s.st := rfl
@[simp] theorem tickTimers_fb : (s.tickTimers).fb = s.fb := rfl
@[simp] theorem tickTimers_mode : (s.tickTimers).mode = s.mode := rfl
@[simp] theorem tickTimers_key : (s.tickTimers).key = s.key := rfl
@[simp] theorem tickTimers_waitReg : (s.tickTimers).waitReg = s.waitReg := rfl
@[simp] theorem tickTimers_fault : (s.tickTimers).fault = s.fault := rfl
@[simp] theorem tickTimers_draws : (s.tickTimers).draws = s.draws := rfl

@[simp] theorem keyDown_mem (k : Nibble) : (s.keyDown k).mem = s.mem := rfl
@[simp] theorem keyDown_v (k : Nibble) : (s.keyDown k).v = s.v := rfl
@[simp] theorem keyDown_pc (k : Nibble) : (s.keyDown k).pc = s.pc := rfl
@[simp] theorem keyDown_i (k : Nibble) : (s.keyDown k).i = s.i := rfl
@[simp] theorem keyDown_stack (k : Nibble) : (s.keyDown k).stack = s.stack := rfl
@[simp] theorem keyDown_dt (k : Nibble) : (s.keyDown k).dt = s.dt := rfl
@[simp] theorem keyDown_st (k : Nibble) : (s.keyDown k).st = s.st := rfl
@[simp] theorem keyDown_fb (k : Nibble) : (s.keyDown k).fb = s.fb := rfl
@[simp] theorem keyDown_mode (k : Nibble) : (s.keyDown k).mode = s.mode := rfl
@[simp] theorem keyDown_key (k : Nibble) : (s.keyDown k).key = some k := rfl
@[simp] theorem keyDown_waitReg (k : Nibble) : (s.keyDown k).waitReg = s.waitReg := rfl
@[simp] theorem keyDown_fault (k : Nibble) : (s.keyDown k).fault = s.fault := rfl
@[simp] theorem keyDown_draws (k : Nibble) : (s.keyDown k).draws = s.draws := rfl

@[simp] theorem keyUp_mem : (s.keyUp).mem = s.mem := rfl
@[simp] theorem keyUp_v : (s.keyUp).v = s.v := rfl
@[simp] theorem keyUp_pc : (s.keyUp).pc = s.pc := rfl
@[simp] theorem keyUp_i : (s.keyUp).i = s.i := rfl
@[simp] theorem keyUp_stack : (s.keyUp).stack = s.stack := rfl
@[simp] theorem keyUp_dt : (s.keyUp).dt = s.dt := rfl
@[simp] theorem keyUp_st : (s.keyUp).st = s.st := rfl
@[simp] theorem keyUp_fb : (s.keyUp).fb = s.fb := rfl
@[simp] theorem keyUp_mode : (s.keyUp).mode = s.mode := rfl
@[simp] theorem keyUp_key : (s.keyUp).key = none := rfl
@[simp] theorem keyUp_waitReg : (s.keyUp).waitReg = s.waitReg := rfl
@[simp] theorem keyUp_fault : (s.keyUp).fault = s.fault := rfl
@[simp] theorem keyUp_draws : (s.keyUp).draws = s.draws := rfl

@[simp] theorem resetOp_mem : s.resetOp.mem = [] := rfl
@[simp] theorem resetOp_v : s.resetOp.v = Vector.replicate 16 0#8 := rfl
@[simp] theorem resetOp_pc : s.resetOp.pc = 0 := rfl
@[simp] theorem resetOp_i : s.resetOp.i = 0 := rfl
@[simp] theorem resetOp_stack : s.resetOp.stack = [] := rfl
@[simp] theorem resetOp_dt : s.resetOp.dt = 0 := rfl
@[simp] theorem resetOp_st : s.resetOp.st = 0 := rfl
@[simp] theorem resetOp_fb : s.resetOp.fb = if Config.resetClearsFb then Framebuffer.clear else s.fb := rfl
@[simp] theorem resetOp_mode : s.resetOp.mode = .running := rfl
@[simp] theorem resetOp_key : s.resetOp.key = s.key := rfl
@[simp] theorem resetOp_waitReg : s.resetOp.waitReg = 0 := rfl
@[simp] theorem resetOp_fault : s.resetOp.fault = none := rfl
@[simp] theorem resetOp_draws : s.resetOp.draws = s.draws := rfl

end Sys2Proof.Machine.State
end

