-- ==== Sys2Proof/Laws/Memory.lean ====
section
/-! SUPPORT. The laws of memory: a write is read back, leaves every other address alone, and keeps the canonical form. -/

namespace Sys2Proof.Machine

variable (m : Memory)

/-- What `wfFrom` says of a memory that lists something. -/
theorem Memory.wfFrom_cons (lo a : Nat) (v : Byte) :
    Memory.wfFrom lo ((a, v) :: m) = true ↔
      lo ≤ a ∧ a < 4096 ∧ v ≠ Memory.resetByte a ∧ Memory.wfFrom (a + 1) m = true := by
  simp [Memory.wfFrom, and_assoc]

/-- A memory in canonical form above `lo` is in canonical form above anything lower. -/
theorem Memory.wfFrom_mono {m : Memory} {lo lo' : Nat} (h : lo' ≤ lo) (hm : Memory.wfFrom lo m = true) :
    Memory.wfFrom lo' m = true := by
  cases m with
  | nil => rfl
  | cons c rest =>
    obtain ⟨a, v⟩ := c
    rw [Memory.wfFrom_cons] at hm ⊢
    exact ⟨h.trans hm.1, hm.2⟩

/-- Below the first listed address everything reads as its reset contents. -/
theorem Memory.read_below {m : Memory} {lo a : Nat} (hm : Memory.wfFrom lo m = true) (h : a < lo) :
    Memory.read m a = Memory.resetByte a := by
  induction m generalizing lo with
  | nil => rfl
  | cons c rest ih =>
    obtain ⟨b, v⟩ := c
    rw [Memory.wfFrom_cons] at hm
    rw [Memory.read, if_neg (by omega)]
    exact ih hm.2.2.2 (by omega)

/-- Read after write, for a memory in canonical form above `lo`. -/
theorem Memory.read_write_from {m : Memory} {lo : Nat} (hm : Memory.wfFrom lo m = true) (a : Nat) (v : Byte) (b : Nat) :
    Memory.read (Memory.write m a v) b = if b = a then v else Memory.read m b := by
  induction m generalizing lo with
  | nil =>
    unfold Memory.write
    split <;> rename_i h <;> by_cases hb : b = a <;> simp [Memory.read, hb, h]
  | cons c rest ih =>
    obtain ⟨d, w⟩ := c
    rw [Memory.wfFrom_cons] at hm
    have ih := ih hm.2.2.2
    unfold Memory.write
    split
    · by_cases hb : b = d
      · have : ¬ b = a := by omega
        simp [Memory.read, hb]; omega
      · simp [Memory.read, hb, ih]
    · split
      · rename_i h
        subst h
        split
        · rename_i h
          by_cases hb : b = d
          · subst hb; simp [h, Memory.read_below hm.2.2.2 (Nat.lt_succ_self b)]
          · simp [Memory.read, hb]
        · by_cases hb : b = d <;> simp [Memory.read, hb]
      · split
        · rename_i h
          by_cases hb : b = a
          · subst hb
            have hd : ¬ b = d := by omega
            simp [Memory.read, hd, h, Memory.read_below hm.2.2.2 (show b < d + 1 by omega)]
          · simp [hb]
        · by_cases hb : b = a <;> simp [Memory.read, hb]

/-- Read after write. -/
theorem Memory.read_write {m : Memory} (hm : m.wf = true) (a : Nat) (v : Byte) (b : Nat) :
    Memory.read (Memory.write m a v) b = if b = a then v else Memory.read m b :=
  Memory.read_write_from hm a v b

/-- A write at or above `lo` keeps the canonical form above `lo`. -/
theorem Memory.write_wfFrom {m : Memory} {lo a : Nat} (hm : Memory.wfFrom lo m = true) (hlo : lo ≤ a) (ha : a < 4096)
    (v : Byte) : Memory.wfFrom lo (Memory.write m a v) = true := by
  induction m generalizing lo with
  | nil =>
    unfold Memory.write
    split
    · rfl
    · rename_i h; rw [Memory.wfFrom_cons]; exact ⟨hlo, ha, h, rfl⟩
  | cons c rest ih =>
    obtain ⟨d, w⟩ := c
    rw [Memory.wfFrom_cons] at hm
    obtain ⟨h1, h2, h3, h4⟩ := hm
    unfold Memory.write
    split
    · rw [Memory.wfFrom_cons]; exact ⟨h1, h2, h3, ih h4 (by omega)⟩
    · split
      · rename_i h
        subst h
        split
        · exact Memory.wfFrom_mono (by omega) h4
        · rename_i h; rw [Memory.wfFrom_cons]; exact ⟨hlo, ha, h, h4⟩
      · split
        · rw [Memory.wfFrom_cons]; exact ⟨h1, h2, h3, h4⟩
        · rename_i hv
          rw [Memory.wfFrom_cons, Memory.wfFrom_cons]
          exact ⟨hlo, ha, hv, by omega, h2, h3, h4⟩

/-- Every write inside memory keeps the canonical form. -/
theorem Memory.write_wf {m : Memory} {a : Nat} (hm : m.wf = true) (ha : a < 4096) (v : Byte) :
    (Memory.write m a v).wf = true :=
  Memory.write_wfFrom hm (Nat.zero_le a) ha v

/-- Every run of writes inside memory keeps the canonical form. -/
theorem Memory.writeBytes_wf {m : Memory} {a : Nat} {bs : List Byte} (hm : m.wf = true) (h : a + bs.length ≤ 4096) :
    (Memory.writeBytes m a bs).wf = true := by
  induction bs generalizing m a with
  | nil => exact hm
  | cons b bs ih =>
    simp only [List.length_cons] at h
    exact ih (Memory.write_wf hm (by omega) b) (by omega)

/-- Reading after a run of writes: the written bytes in place, every other address as before. -/
theorem Memory.read_writeBytes {m : Memory} {a : Nat} {bs : List Byte} (hm : m.wf = true) (h : a + bs.length ≤ 4096)
    (b : Nat) :
    Memory.read (Memory.writeBytes m a bs) b = if a ≤ b ∧ b < a + bs.length then bs.getD (b - a) 0 else Memory.read m b := by
  induction bs generalizing m a with
  | nil => simp [Memory.writeBytes]
  | cons c bs ih =>
    simp only [List.length_cons] at h
    rw [Memory.writeBytes, ih (Memory.write_wf hm (by omega) c) (by omega), Memory.read_write hm]
    by_cases h1 : b = a
    · subst h1; simp
    · by_cases h2 : a + 1 ≤ b ∧ b < a + 1 + bs.length
      · obtain ⟨k, rfl⟩ : ∃ k, b = a + 1 + k := ⟨b - (a + 1), by omega⟩
        have h3 : a + 1 + k - a = k + 1 := by omega
        have h4 : a + 1 + k - (a + 1) = k := by omega
        rw [if_pos h2, if_pos (by simp only [List.length_cons]; omega), h3, h4]
        simp
      · rw [if_neg h2, if_neg h1, if_neg (by simp only [List.length_cons]; omega)]

end Sys2Proof.Machine
end

