-- ==== Sys2Proof/Laws/Ops.lean ====
section
/-! SUPPORT. One lemma per shared operation that says everything it can do: registers, the call stack, checked memory
accesses and runs of them, the end of an instruction. -/

namespace Sys2Proof.Machine

variable (s : State)

/-- A register write is read back and leaves every other register alone. -/
theorem State.readReg_writeReg (x r : Reg) (b : Byte) :
    (s.writeReg x b).readReg r = if r = x then b else s.readReg r := by
  unfold State.readReg State.writeReg
  simp only [Vector.getElem_set]
  by_cases h : r = x
  · simp [h]
  · have : ¬ x.toNat = r.toNat := fun e => h (BitVec.eq_of_toNat_eq e.symm)
    simp [h, this]

@[simp] theorem State.readReg_writeReg_self (x : Reg) (b : Byte) : (s.writeReg x b).readReg x = b := by
  simp [State.readReg_writeReg]

theorem State.readReg_writeReg_ne {x r : Reg} (h : r ≠ x) (b : Byte) : (s.writeReg x b).readReg r = s.readReg r := by
  simp [State.readReg_writeReg, h]

@[simp] theorem State.writeFlag_eq (b : Byte) : s.writeFlag b = s.writeReg 0xF#4 b := rfl

@[simp] theorem State.readReg_commitPc (n : Nat) (r : Reg) : (s.commitPc n).readReg r = s.readReg r := rfl
@[simp] theorem State.readReg_setIndex (n : Nat) (r : Reg) : (s.setIndex n).readReg r = s.readReg r := rfl
@[simp] theorem State.readReg_setFramebuffer (fb : Framebuffer) (r : Reg) :
    (s.setFramebuffer fb).readReg r = s.readReg r := rfl
@[simp] theorem State.readReg_raise (k : FaultKind) (w : Option Word) (r : Reg) :
    (s.raise k w).readReg r = s.readReg r := rfl
@[simp] theorem State.readReg_drawByte (r : Reg) : s.drawByte.2.readReg r = s.readReg r := rfl
@[simp] theorem State.readReg_setMem (m : Memory) (r : Reg) : (s.setMem m).readReg r = s.readReg r := rfl
@[simp] theorem State.readReg_setStack (k : List Addr) (r : Reg) : (s.setStack k).readReg r = s.readReg r := rfl
@[simp] theorem State.readReg_setDelayTimer (b : Byte) (r : Reg) : (s.setDelayTimer b).readReg r = s.readReg r := rfl
@[simp] theorem State.readReg_setSoundTimer (b : Byte) (r : Reg) : (s.setSoundTimer b).readReg r = s.readReg r := rfl
@[simp] theorem State.readReg_setMode (m : Mode) (r : Reg) : (s.setMode m).readReg r = s.readReg r := rfl
@[simp] theorem State.readReg_setWaitReg (x : Reg) (r : Reg) : (s.setWaitReg x).readReg r = s.readReg r := rfl
@[simp] theorem State.readByte_eq (a : Nat) : s.readByte a = Memory.read s.mem a := rfl

/-- The committed PC is the proposed one modulo the memory size (spec/30_encoding.md R92). -/
@[simp] theorem State.commitPc_toNat (n : Nat) : (s.commitPc n).pc.toNat = n % 4096 := by
  simp [State.commitPc, Config.memSize]

/-- `I` holds every number up to 0x1000. -/
theorem State.setIndex_toNat {n : Nat} (h : n < 65536) : (s.setIndex n).i.toNat = n := by
  simp [State.setIndex, Nat.mod_eq_of_lt h]

theorem State.skipPc_eq (c : Bool) : s.skipPc c = s.pc.toNat + (if c then 4 else 2) := by
  unfold State.skipPc State.seqPc
  split <;> rfl

/-- Re-reading an operand after the flag write is reading the register that the flag write left (spec/41_alu.md R121). -/
theorem rereadOperand_sequential (r : Reg) (f : Byte) :
    rereadOperand .sequential r (s.readReg r) f = (s.writeFlag f).readReg r := by
  simp only [rereadOperand, State.writeFlag_eq, State.readReg_writeReg, regVF]

/-- Under SNAPSHOT an operand keeps its first value (R121). -/
@[simp] theorem rereadOperand_snapshot (r : Reg) (old f : Byte) : rereadOperand .snapshot r old f = old := by
  unfold rereadOperand
  split <;> rfl

/-- An operand that is not VF keeps its first value (R121). -/
theorem rereadOperand_of_ne {r : Reg} (h : r ≠ 0xF#4) (fa : FlagAlias) (old f : Byte) :
    rereadOperand fa r old f = old := by
  simp [rereadOperand, regVF, h]

/-- `MemRead` (spec/20_memory.md R52). -/
theorem State.memRead_ok {a : Nat} (h : a < 4096) : s.memRead a = .ok (Memory.read s.mem a) := by
  simp [State.memRead, Config.memSize, Nat.not_le.mpr h]

/-- `MemWrite` (R52). -/
theorem State.memWrite_ok {a : Nat} (h : a < 4096) (b : Byte) :
    s.memWrite a b = .ok (s.setMem (Memory.write s.mem a b)) := by
  simp [State.memWrite, Config.memSize, Nat.not_le.mpr h]

/-- A run of stores inside memory changes memory by those bytes, and nothing else. -/
theorem State.storeBytes_ok {a : Nat} {bs : List Byte} (h : a + bs.length ≤ 4096) :
    s.storeBytes a bs = .ok (s.setMem (Memory.writeBytes s.mem a bs)) := by
  induction bs generalizing s a with
  | nil => rfl
  | cons b bs ih =>
    simp only [List.length_cons] at h
    rw [State.storeBytes, State.memWrite_ok s (by omega)]
    simp only [ih (s.setMem (Memory.write s.mem a b)) (a := a + 1) (by omega), Memory.writeBytes]
    rfl

/-- The bytes of `n` ascending addresses. -/
theorem State.loadBytes_ok {a n : Nat} (h : a + n ≤ 4096) :
    s.loadBytes a n = .ok ((List.range n).map fun k => Memory.read s.mem (a + k)) := by
  induction n generalizing a with
  | zero => rfl
  | succ n ih =>
    rw [State.loadBytes, State.memRead_ok s (by omega), ih (by omega), List.range_succ_eq_map]
    simp [Nat.add_assoc, Nat.add_comm 1, Function.comp_def]

/-- `Push(a)` (spec/10_state.md R29). -/
theorem State.push_cases (a : Nat) :
    (4096 ≤ a ∧ s.push a = .error .memoryAccess) ∨
    (a < 4096 ∧ 4096 ≤ s.stack.length ∧ s.push a = .error .undefinedBehaviour) ∨
    (a < 4096 ∧ s.stack.length < 4096 ∧ s.push a = .ok (s.setStack (s.stack ++ [BitVec.ofNat 12 a]))) := by
  simp only [State.push, Config.memSize, Config.stackDepth]
  split
  · left; exact ⟨by omega, rfl⟩
  · split
    · right; left; exact ⟨by omega, by omega, rfl⟩
    · right; right; exact ⟨by omega, by omega, rfl⟩

/-- `Pop()` (spec/10_state.md R30). -/
theorem State.pop_cases :
    (s.stack = [] ∧ s.pop = .error .stackUnderflow) ∨
    (∃ rest a, s.stack = rest ++ [a] ∧ s.pop = .ok (a, s.setStack rest)) := by
  rcases List.eq_nil_or_concat s.stack with h | ⟨rest, a, h⟩
  · left; exact ⟨h, by simp [State.pop, h]⟩
  · right; exact ⟨rest, a, by simpa using h, by simp [State.pop, h]⟩

/-- The end of an instruction that raised (spec/60_exceptions.md R171). -/
@[simp] theorem State.conclude_error (i : Instr) (k : FaultKind) :
    s.conclude i (.error k) = .next (s.raise k (some (encode i))) := rfl

/-- The end of an instruction that completed (spec/30_encoding.md R92). -/
@[simp] theorem State.conclude_ok (i : Instr) (t : State) (n : Nat) :
    s.conclude i (.ok (t, n)) = .next (t.commitPc n) := rfl

/-- An instruction ends in a next state, whatever its rule did. -/
theorem State.conclude_cases (i : Instr) (r : Except FaultKind (State × Nat)) :
    (∃ k, r = .error k ∧ s.conclude i r = .next (s.raise k (some (encode i)))) ∨
    (∃ t n, r = .ok (t, n) ∧ s.conclude i r = .next (t.commitPc n)) := by
  rcases r with k | ⟨t, n⟩
  · left; exact ⟨k, rfl, rfl⟩
  · right; exact ⟨t, n, rfl, rfl⟩

/-- A run of register writes changes no element but the registers. -/
theorem State.writeRegs_eq (k : Nat) (bs : List Byte) : ∃ v, s.writeRegs k bs = { s with v := v } := by
  induction bs generalizing s k with
  | nil => exact ⟨s.v, rfl⟩
  | cons b bs ih =>
    obtain ⟨v, hv⟩ := ih (s.writeReg (BitVec.ofNat 4 k) b) (k + 1)
    exact ⟨v, hv⟩

/-- What a run of register writes from `k` leaves in each register. -/
theorem State.readReg_writeRegs {k : Nat} {bs : List Byte} (h : k + bs.length ≤ 16) (r : Reg) :
    (s.writeRegs k bs).readReg r
      = if k ≤ r.toNat ∧ r.toNat < k + bs.length then bs.getD (r.toNat - k) 0 else s.readReg r := by
  induction bs generalizing s k with
  | nil => simp [State.writeRegs]
  | cons b bs ih =>
    simp only [List.length_cons] at h
    have hk : (BitVec.ofNat 4 k).toNat = k := by simp; omega
    rw [State.writeRegs, ih _ (by omega), State.readReg_writeReg]
    by_cases h1 : r = BitVec.ofNat 4 k
    · subst h1; simp [hk]
    · have hne : r.toNat ≠ k := fun e => h1 (BitVec.eq_of_toNat_eq (by rw [hk, e]))
      by_cases h2 : k + 1 ≤ r.toNat ∧ r.toNat < k + 1 + bs.length
      · have h3 : r.toNat - k = r.toNat - (k + 1) + 1 := by omega
        rw [if_pos h2, if_pos (by simp only [List.length_cons]; omega), h3]
        simp
      · rw [if_neg h2, if_neg h1, if_neg (by simp only [List.length_cons]; omega)]

/-- `V0..Vx` has `x + 1` bytes. -/
@[simp] theorem State.regsUpTo_length (x : Reg) : (s.regsUpTo x).length = x.toNat + 1 := by
  have := x.isLt
  simp [State.regsUpTo]; omega

/-- The `k`-th byte of `V0..Vx` is `Vk`. -/
theorem State.regsUpTo_getD (x : Reg) {k : Nat} (h : k ≤ x.toNat) :
    (s.regsUpTo x).getD k 0 = s.readReg (BitVec.ofNat 4 k) := by
  have hx := x.isLt
  have hk : k < 16 := by omega
  have hk' : (BitVec.ofNat 4 k).toNat = k := by simp; omega
  simp [State.regsUpTo, State.readReg, List.getD_eq_getElem?_getD, hk, hk', Nat.lt_succ_of_le h]

@[simp] theorem decimalDigits_length (b : Byte) : (decimalDigits b).length = 3 := rfl

end Sys2Proof.Machine
end

