-- ==== Sys2Proof/Laws/Display.lean ====
section
/-! SUPPORT. The framebuffer's write port, pixel by pixel (spec/43_display.md R152). -/

namespace Sys2Proof.Machine

variable (fb : Framebuffer)

/-- Coordinates wrap (spec/10_state.md R34). -/
theorem Framebuffer.pixel_mod (x y : Nat) : fb.pixel (x % 64) (y % 32) = fb.pixel x y := by
  simp [Framebuffer.pixel]

/-- Flipping one bit of a row. -/
theorem getLsbD_flip (row : BitVec 64) {a b : Nat} (ha : a < 64) (hb : b < 64) :
    (row ^^^ (1#64 <<< a)).getLsbD b = if b = a then !row.getLsbD b else row.getLsbD b := by
  rw [BitVec.getLsbD_xor, BitVec.getLsbD_shiftLeft]
  rcases Nat.lt_trichotomy b a with h | h | h
  · simp [h, hb, Nat.ne_of_lt h]
  · simp [h, ha]
  · have h0 : b - a ≠ 0 := by omega
    simp [hb, h0, Nat.not_lt.mpr h.le, Nat.ne_of_gt h]

/-- `SetPixel` XORs the one pixel it names and leaves every other pixel alone. -/
theorem Framebuffer.pixel_setPixel (x y : Nat) (v : Bool) (px py : Nat) :
    (fb.setPixel x y v).1.pixel px py
      = if px % 64 = x % 64 ∧ py % 32 = y % 32 then fb.pixel px py ^^ v else fb.pixel px py := by
  have hx : x % 64 < 64 := Nat.mod_lt x (by decide)
  have hpx : px % 64 < 64 := Nat.mod_lt px (by decide)
  simp only [Framebuffer.pixel, Framebuffer.setPixel, Vector.getElem_set]
  by_cases hy : py % 32 = y % 32
  · cases v
    · simp [hy]
    · by_cases h : px % 64 = x % 64 <;> simp [hy, h, hx, getLsbD_flip _ hx hpx]
  · have : ¬ y % 32 = py % 32 := fun e => hy e.symm
    simp [hy, this]

/-- `SetPixel` reports exactly a set pixel that became unset. -/
theorem Framebuffer.setPixel_hit (x y : Nat) (v : Bool) : (fb.setPixel x y v).2 = (fb.pixel x y && v) := rfl

end Sys2Proof.Machine
end

