-- ==== Sys2Proof/Laws/Exec.lean ====
section
/-! SUPPORT. What each instruction that can raise does, by cases on the condition of its rule, and what a fetch and a step
do: the lemmas to cite instead of unfolding a meaning. An instruction that cannot raise is its one line by `rfl`. -/

namespace Sys2Proof.Machine

variable (s : State)

/-- `00EE` (spec/40_control.md R103). -/
theorem execRet_cases :
    (s.stack = [] ∧ execRet s = .next (s.raise .stackUnderflow (some (encode .ret)))) ∨
    (∃ rest a, s.stack = rest ++ [a] ∧ execRet s = .next ((s.setStack rest).commitPc a.toNat)) := by
  rcases s.pop_cases with ⟨h, e⟩ | ⟨rest, a, h, e⟩
  · left; exact ⟨h, by simp only [execRet, e]; rfl⟩
  · right; exact ⟨rest, a, h, by simp only [execRet, e]; rfl⟩

/-- `2NNN` (spec/40_control.md R105). -/
theorem execCall_cases (nnn : Addr) :
    (4096 ≤ s.pc.toNat + 2 ∧ execCall nnn s = .next (s.raise .memoryAccess (some (encode (.call nnn))))) ∨
    (s.pc.toNat + 2 < 4096 ∧ 4096 ≤ s.stack.length
      ∧ execCall nnn s = .next (s.raise .undefinedBehaviour (some (encode (.call nnn))))) ∨
    (s.pc.toNat + 2 < 4096 ∧ s.stack.length < 4096
      ∧ execCall nnn s
          = .next ((s.setStack (s.stack ++ [BitVec.ofNat 12 (s.pc.toNat + 2)])).commitPc nnn.toNat)) := by
  rcases s.push_cases s.seqPc with ⟨h, e⟩ | ⟨h, h', e⟩ | ⟨h, h', e⟩
  · left; exact ⟨h, by simp only [execCall, e]; rfl⟩
  · right; left; exact ⟨h, h', by simp only [execCall, e]; rfl⟩
  · right; right; exact ⟨h, h', by simp only [execCall, e]; rfl⟩

/-- `FX1E` (spec/42_index_memory.md R141). -/
theorem execAddI_cases (x : Reg) :
    (4096 < s.i.toNat + (s.readReg x).toNat
      ∧ execAddI x s = .next (s.raise .undefinedBehaviour (some (encode (.addI x))))) ∨
    (s.i.toNat + (s.readReg x).toNat ≤ 4096
      ∧ execAddI x s = .next ((s.setIndex (s.i.toNat + (s.readReg x).toNat)).commitPc s.seqPc)) := by
  by_cases h : 4096 < s.i.toNat + (s.readReg x).toNat
  · left; exact ⟨h, by rw [execAddI, if_pos h]; rfl⟩
  · right; exact ⟨by omega, by rw [execAddI, if_neg h]; rfl⟩

/-- `FX29` (R142). -/
theorem execLdF_cases (x : Reg) :
    (15 < (s.readReg x).toNat ∧ execLdF x s = .next (s.raise .undefinedBehaviour (some (encode (.ldF x))))) ∨
    ((s.readReg x).toNat ≤ 15
      ∧ execLdF x s = .next ((s.setIndex (0x050 + 5 * (s.readReg x).toNat)).commitPc s.seqPc)) := by
  by_cases h : 15 < (s.readReg x).toNat
  · left; exact ⟨h, by rw [execLdF, if_pos h]; rfl⟩
  · right; exact ⟨by omega, by rw [execLdF, if_neg h]; rfl⟩

/-- `FX33` (R143). -/
theorem execLdB_cases (x : Reg) :
    (4096 ≤ s.i.toNat + 2 ∧ execLdB x s = .next (s.raise .memoryAccess (some (encode (.ldB x))))) ∨
    (s.i.toNat + 2 < 4096
      ∧ execLdB x s
          = .next ((s.setMem (Memory.writeBytes s.mem s.i.toNat (decimalDigits (s.readReg x)))).commitPc s.seqPc)) := by
  by_cases h : 4096 ≤ s.i.toNat + 2
  · left; exact ⟨h, by rw [execLdB, if_pos h]; rfl⟩
  · right
    refine ⟨by omega, ?_⟩
    rw [execLdB, if_neg h, s.storeBytes_ok (by rw [decimalDigits_length]; omega)]
    rfl

/-- `FX55` (R144). -/
theorem execLdMemVx_cases (x : Reg) :
    (4096 ≤ s.i.toNat + x.toNat ∧ execLdMemVx x s = .next (s.raise .memoryAccess (some (encode (.ldMemVx x))))) ∨
    (s.i.toNat + x.toNat < 4096
      ∧ execLdMemVx x s
          = .next (((s.setMem (Memory.writeBytes s.mem s.i.toNat (s.regsUpTo x))).setIndex
              (s.i.toNat + x.toNat + 1)).commitPc s.seqPc)) := by
  by_cases h : 4096 ≤ s.i.toNat + x.toNat
  · left; exact ⟨h, by rw [execLdMemVx, if_pos h]; rfl⟩
  · right
    refine ⟨by omega, ?_⟩
    rw [execLdMemVx, if_neg h, s.storeBytes_ok (by rw [State.regsUpTo_length]; omega)]
    rfl

/-- `FX65` (R145). -/
theorem execLdVxMem_cases (x : Reg) :
    (4096 ≤ s.i.toNat + x.toNat ∧ execLdVxMem x s = .next (s.raise .memoryAccess (some (encode (.ldVxMem x))))) ∨
    (s.i.toNat + x.toNat < 4096
      ∧ execLdVxMem x s
          = .next (((s.writeRegs 0 ((List.range (x.toNat + 1)).map fun k => Memory.read s.mem (s.i.toNat + k))).setIndex
              (s.i.toNat + x.toNat + 1)).commitPc s.seqPc)) := by
  by_cases h : 4096 ≤ s.i.toNat + x.toNat
  · left; exact ⟨h, by rw [execLdVxMem, if_pos h]; rfl⟩
  · right
    refine ⟨by omega, ?_⟩
    rw [execLdVxMem, if_neg h, s.loadBytes_ok (by omega)]
    rfl

/-- `DXYN` (spec/43_display.md R151). -/
theorem execDrw_cases (x y : Reg) (n : Nibble) :
    (4096 ≤ s.i.toNat + n.toNat ∧ execDrw x y n s = .next (s.raise .memoryAccess (some (encode (.drw x y n))))) ∨
    (s.i.toNat + n.toNat < 4096 ∧ ∃ d,
      d = s.fb.drawRows (s.readReg x).toNat (s.readReg y).toNat
            ((List.range n.toNat).map fun k => Memory.read s.mem (s.i.toNat + k))
      ∧ execDrw x y n s = .next (((s.setFramebuffer d.1).writeFlag (flagByte d.2)).commitPc s.seqPc)) := by
  by_cases h : 4096 ≤ s.i.toNat + n.toNat
  · left; exact ⟨h, by rw [execDrw, if_pos h]; rfl⟩
  · right
    refine ⟨by omega, _, rfl, ?_⟩
    rw [execDrw, if_neg h, s.loadBytes_ok (by omega)]
    rfl

/-- The fetch (spec/30_encoding.md R90). -/
theorem State.fetchWord_cases :
    (4096 ≤ s.pc.toNat + 1 ∧ s.fetchWord = .error .memoryAccess) ∨
    (s.pc.toNat + 1 < 4096
      ∧ s.fetchWord = .ok (wordOfBytes (Memory.read s.mem s.pc.toNat) (Memory.read s.mem (s.pc.toNat + 1)))) := by
  by_cases h : 4096 ≤ s.pc.toNat + 1
  · left; exact ⟨h, by rw [State.fetchWord, if_pos h]⟩
  · right
    refine ⟨by omega, ?_⟩
    rw [State.fetchWord, if_neg h, s.memRead_ok (by omega), s.memRead_ok (by omega)]

/-- A step, by the recorded fault, the mode, the fetch and the decoding, in the order of spec/60_exceptions.md R173. -/
theorem step_cases :
    ((∃ r, s.fault = some r) ∧ step s = .next s) ∨
    (s.fault = none ∧ (s.mode = .init ∨ s.mode = .unused) ∧ step s = .next (s.raise .unimplementedState none)) ∨
    (s.fault = none ∧ s.mode = .waitForKey ∧ step s = .next s.serviceKeyWait) ∨
    (s.fault = none ∧ s.mode = .running ∧ s.fetchWord = .error .memoryAccess
      ∧ step s = .next (s.raise .memoryAccess none)) ∨
    (s.fault = none ∧ s.mode = .running ∧ ∃ w, s.fetchWord = .ok w
      ∧ (((∃ e, decode w = .error e) ∧ step s = .next (s.raise .illegalInstruction (some w)))
        ∨ ∃ i, decode w = .ok i ∧ step s = exec i s)) := by
  unfold step State.cycle State.runInstruction
  rcases s.fault with _ | r
  · rcases s.mode
    · simp
    · rcases s.fetchWord_cases with ⟨_, e⟩ | ⟨_, e⟩
      · simp [e]
      · rw [e]
        simp only [true_and, reduceCtorEq, false_and, false_or, or_false, Except.ok.injEq, exists_eq_left', exists_false]
        cases decode (wordOfBytes (Memory.read s.mem s.pc.toNat) (Memory.read s.mem (s.pc.toNat + 1))) <;> simp
    · simp
    · simp
  · simp

end Sys2Proof.Machine
end

