-- ==== Sys2Proof/Laws/HostOps.lean ====
section
/-! SUPPORT. What the host operations that can raise do, by cases on the condition of their rule: the lemmas to cite
instead of unfolding `loadProgram` and `stateMut`. -/

namespace Sys2Proof.Machine

variable (s : State)

/-- `load_program` (spec/70_reset_and_hazards.md R203). -/
theorem State.loadProgram_cases (bytes : List Byte) :
    (3584 < bytes.length ∧ s.loadProgram bytes = (s.raise .memoryAccess none, some .memoryAccess)) ∨
    (bytes.length ≤ 3584
      ∧ s.loadProgram bytes
          = ({ s.resetOp with mem := Memory.writeBytes [] 0x200 bytes, pc := 0x200#12 }, none)) := by
  by_cases h : 3584 < bytes.length
  · exact .inl ⟨h, if_pos h⟩
  · exact .inr ⟨by omega, if_neg h⟩

/-- A host write of a register (spec/60_exceptions.md R188, spec/10_state.md R25). -/
theorem State.stateMut_reg_cases (r v : Nat) :
    (16 ≤ r ∧ s.stateMut (.reg r v) = (s.raise .registerAccess none, some .registerAccess)) ∨
    (r < 16 ∧ s.stateMut (.reg r v) = (s.writeReg (BitVec.ofNat 4 r) (BitVec.ofNat 8 v), none)) := by
  by_cases h : r < 16
  · exact .inr ⟨h, if_pos h⟩
  · exact .inl ⟨by omega, if_neg h⟩

/-- A host write of a byte of memory (spec/60_exceptions.md R188, spec/20_memory.md R52; log 7). -/
theorem State.stateMut_mem_cases (a v : Nat) :
    (4096 ≤ a ∧ s.stateMut (.mem a v) = (s.raise .memoryAccess none, some .memoryAccess)) ∨
    (a < 4096 ∧ s.stateMut (.mem a v) = (s.setMem (Memory.write s.mem a (BitVec.ofNat 8 v)), none)) := by
  by_cases h : a < 4096
  · exact .inr ⟨h, by simp [State.stateMut, s.memWrite_ok h]⟩
  · exact .inl ⟨by omega, by simp [State.stateMut, State.memWrite, Nat.not_lt.mp h]⟩

end Sys2Proof.Machine
end

