-- ==== Sys2Proof/Laws/PerInstr.lean ====
section
/-! SUPPORT. Facts about every instruction, one lemma per constructor. Family EncodeFitsTable: the word of an
instruction has, in each bit field of its row of spec/opcode_table.json, the row's fixed value or its operand. -/

namespace Sys2Proof.Laws.EncodeFitsTable

-- One lemma at a time, so that few threads' stacks are held at once.
set_option Elab.async false

/-- The bit fields of an instruction's row, fixed ones and operands: (hi, lo, value). -/
def rowFields : Instr → List (Nat × Nat × Nat)
  | .nop => [(15, 0, 0)]
  | .cls => [(15, 0, 224)]
  | .ret => [(15, 0, 238)]
  | .jp nnn => [(15, 12, 1), (11, 0, nnn.toNat)]
  | .call nnn => [(15, 12, 2), (11, 0, nnn.toNat)]
  | .seImm x nn => [(15, 12, 3), (11, 8, x.toNat), (7, 0, nn.toNat)]
  | .sneImm x nn => [(15, 12, 4), (11, 8, x.toNat), (7, 0, nn.toNat)]
  | .seReg x y => [(15, 12, 5), (11, 8, x.toNat), (7, 4, y.toNat), (3, 0, 0)]
  | .ldImm x nn => [(15, 12, 6), (11, 8, x.toNat), (7, 0, nn.toNat)]
  | .addImm x nn => [(15, 12, 7), (11, 8, x.toNat), (7, 0, nn.toNat)]
  | .ldReg x y => [(15, 12, 8), (11, 8, x.toNat), (7, 4, y.toNat), (3, 0, 0)]
  | .orReg x y => [(15, 12, 8), (11, 8, x.toNat), (7, 4, y.toNat), (3, 0, 1)]
  | .andReg x y => [(15, 12, 8), (11, 8, x.toNat), (7, 4, y.toNat), (3, 0, 2)]
  | .xorReg x y => [(15, 12, 8), (11, 8, x.toNat), (7, 4, y.toNat), (3, 0, 3)]
  | .addReg x y => [(15, 12, 8), (11, 8, x.toNat), (7, 4, y.toNat), (3, 0, 4)]
  | .sub x y => [(15, 12, 8), (11, 8, x.toNat), (7, 4, y.toNat), (3, 0, 5)]
  | .shr x y => [(15, 12, 8), (11, 8, x.toNat), (7, 4, y.toNat), (3, 0, 6)]
  | .subn x y => [(15, 12, 8), (11, 8, x.toNat), (7, 4, y.toNat), (3, 0, 7)]
  | .shl x y => [(15, 12, 8), (11, 8, x.toNat), (7, 4, y.toNat), (3, 0, 14)]
  | .sneReg x y => [(15, 12, 9), (11, 8, x.toNat), (7, 4, y.toNat), (3, 0, 0)]
  | .ldI nnn => [(15, 12, 10), (11, 0, nnn.toNat)]
  | .jpV0 nnn => [(15, 12, 11), (11, 0, nnn.toNat)]
  | .rnd x nn => [(15, 12, 12), (11, 8, x.toNat), (7, 0, nn.toNat)]
  | .drw x y n => [(15, 12, 13), (11, 8, x.toNat), (7, 4, y.toNat), (3, 0, n.toNat)]
  | .skp x => [(15, 12, 14), (11, 8, x.toNat), (7, 0, 158)]
  | .sknp x => [(15, 12, 14), (11, 8, x.toNat), (7, 0, 161)]
  | .ldVxDt x => [(15, 12, 15), (11, 8, x.toNat), (7, 0, 7)]
  | .ldVxK x => [(15, 12, 15), (11, 8, x.toNat), (7, 0, 10)]
  | .ldDtVx x => [(15, 12, 15), (11, 8, x.toNat), (7, 0, 21)]
  | .ldStVx x => [(15, 12, 15), (11, 8, x.toNat), (7, 0, 24)]
  | .addI x => [(15, 12, 15), (11, 8, x.toNat), (7, 0, 30)]
  | .ldF x => [(15, 12, 15), (11, 8, x.toNat), (7, 0, 41)]
  | .ldB x => [(15, 12, 15), (11, 8, x.toNat), (7, 0, 51)]
  | .ldMemVx x => [(15, 12, 15), (11, 8, x.toNat), (7, 0, 85)]
  | .ldVxMem x => [(15, 12, 15), (11, 8, x.toNat), (7, 0, 101)]

/-- Each field of the word reads as the row says. -/
def Statement (i : Instr) : Prop :=
  ∀ f ∈ rowFields i, (encode i).toNat / 2 ^ f.2.1 % 2 ^ (f.1 + 1 - f.2.1) = f.2.2

theorem nop : Statement (.nop) := by
  simp [Statement, rowFields, encode]

theorem cls : Statement (.cls) := by
  simp [Statement, rowFields, encode]

theorem ret : Statement (.ret) := by
  simp [Statement, rowFields, encode]

theorem jp (nnn : Addr) : Statement (.jp nnn) := by
  have := nnn.isLt
  simp [Statement, rowFields, encode, wordTNNN_toNat]; omega

theorem call (nnn : Addr) : Statement (.call nnn) := by
  have := nnn.isLt
  simp [Statement, rowFields, encode, wordTNNN_toNat]; omega

theorem seImm (x : Reg) (nn : Byte) : Statement (.seImm x nn) := by
  have := x.isLt
  have := nn.isLt
  simp [Statement, rowFields, encode, wordTXNN_toNat]; omega

theorem sneImm (x : Reg) (nn : Byte) : Statement (.sneImm x nn) := by
  have := x.isLt
  have := nn.isLt
  simp [Statement, rowFields, encode, wordTXNN_toNat]; omega

theorem seReg (x : Reg) (y : Reg) : Statement (.seReg x y) := by
  have := x.isLt
  have := y.isLt
  simp [Statement, rowFields, encode, wordTXYN_toNat]; omega

theorem ldImm (x : Reg) (nn : Byte) : Statement (.ldImm x nn) := by
  have := x.isLt
  have := nn.isLt
  simp [Statement, rowFields, encode, wordTXNN_toNat]; omega

theorem addImm (x : Reg) (nn : Byte) : Statement (.addImm x nn) := by
  have := x.isLt
  have := nn.isLt
  simp [Statement, rowFields, encode, wordTXNN_toNat]; omega

theorem ldReg (x : Reg) (y : Reg) : Statement (.ldReg x y) := by
  have := x.isLt
  have := y.isLt
  simp [Statement, rowFields, encode, wordTXYN_toNat]; omega

theorem orReg (x : Reg) (y : Reg) : Statement (.orReg x y) := by
  have := x.isLt
  have := y.isLt
  simp [Statement, rowFields, encode, wordTXYN_toNat]; omega

theorem andReg (x : Reg) (y : Reg) : Statement (.andReg x y) := by
  have := x.isLt
  have := y.isLt
  simp [Statement, rowFields, encode, wordTXYN_toNat]; omega

theorem xorReg (x : Reg) (y : Reg) : Statement (.xorReg x y) := by
  have := x.isLt
  have := y.isLt
  simp [Statement, rowFields, encode, wordTXYN_toNat]; omega

theorem addReg (x : Reg) (y : Reg) : Statement (.addReg x y) := by
  have := x.isLt
  have := y.isLt
  simp [Statement, rowFields, encode, wordTXYN_toNat]; omega

theorem sub (x : Reg) (y : Reg) : Statement (.sub x y) := by
  have := x.isLt
  have := y.isLt
  simp [Statement, rowFields, encode, wordTXYN_toNat]; omega

theorem shr (x : Reg) (y : Reg) : Statement (.shr x y) := by
  have := x.isLt
  have := y.isLt
  simp [Statement, rowFields, encode, wordTXYN_toNat]; omega

theorem subn (x : Reg) (y : Reg) : Statement (.subn x y) := by
  have := x.isLt
  have := y.isLt
  simp [Statement, rowFields, encode, wordTXYN_toNat]; omega

theorem shl (x : Reg) (y : Reg) : Statement (.shl x y) := by
  have := x.isLt
  have := y.isLt
  simp [Statement, rowFields, encode, wordTXYN_toNat]; omega

theorem sneReg (x : Reg) (y : Reg) : Statement (.sneReg x y) := by
  have := x.isLt
  have := y.isLt
  simp [Statement, rowFields, encode, wordTXYN_toNat]; omega

theorem ldI (nnn : Addr) : Statement (.ldI nnn) := by
  have := nnn.isLt
  simp [Statement, rowFields, encode, wordTNNN_toNat]; omega

theorem jpV0 (nnn : Addr) : Statement (.jpV0 nnn) := by
  have := nnn.isLt
  simp [Statement, rowFields, encode, wordTNNN_toNat]; omega

theorem rnd (x : Reg) (nn : Byte) : Statement (.rnd x nn) := by
  have := x.isLt
  have := nn.isLt
  simp [Statement, rowFields, encode, wordTXNN_toNat]; omega

theorem drw (x : Reg) (y : Reg) (n : Nibble) : Statement (.drw x y n) := by
  have := x.isLt
  have := y.isLt
  have := n.isLt
  simp [Statement, rowFields, encode, wordTXYN_toNat]; omega

theorem skp (x : Reg) : Statement (.skp x) := by
  have := x.isLt
  simp [Statement, rowFields, encode, wordTXNN_toNat]; omega

theorem sknp (x : Reg) : Statement (.sknp x) := by
  have := x.isLt
  simp [Statement, rowFields, encode, wordTXNN_toNat]; omega

theorem ldVxDt (x : Reg) : Statement (.ldVxDt x) := by
  have := x.isLt
  simp [Statement, rowFields, encode, wordTXNN_toNat]; omega

theorem ldVxK (x : Reg) : Statement (.ldVxK x) := by
  have := x.isLt
  simp [Statement, rowFields, encode, wordTXNN_toNat]; omega

theorem ldDtVx (x : Reg) : Statement (.ldDtVx x) := by
  have := x.isLt
  simp [Statement, rowFields, encode, wordTXNN_toNat]; omega

theorem ldStVx (x : Reg) : Statement (.ldStVx x) := by
  have := x.isLt
  simp [Statement, rowFields, encode, wordTXNN_toNat]; omega

theorem addI (x : Reg) : Statement (.addI x) := by
  have := x.isLt
  simp [Statement, rowFields, encode, wordTXNN_toNat]; omega

theorem ldF (x : Reg) : Statement (.ldF x) := by
  have := x.isLt
  simp [Statement, rowFields, encode, wordTXNN_toNat]; omega

theorem ldB (x : Reg) : Statement (.ldB x) := by
  have := x.isLt
  simp [Statement, rowFields, encode, wordTXNN_toNat]; omega

theorem ldMemVx (x : Reg) : Statement (.ldMemVx x) := by
  have := x.isLt
  simp [Statement, rowFields, encode, wordTXNN_toNat]; omega

theorem ldVxMem (x : Reg) : Statement (.ldVxMem x) := by
  have := x.isLt
  simp [Statement, rowFields, encode, wordTXNN_toNat]; omega

end Sys2Proof.Laws.EncodeFitsTable
end

