-- ==== Sys2Proof/Tests/Slice0.lean ====
section
/-! SUPPORT. The model's own tests. The expected values come from spec/95_test_vectors.md (the source's worked examples and
the vectors derived from the rules by hand) or from the rule a docstring names. `test_…` are tests; `witness_…` show, for
each obligation with hypotheses, concrete states and operands that meet them, at the ends of each clause's range. -/

namespace Sys2Proof.Tests

open Sys2Proof.Machine

-- One theorem at a time: checked side by side, the tests of this file would hold too many threads' stacks at once.
set_option Elab.async false

/-! ### Well-formedness: each row of spec/30_encoding.md R76 refuses a word, and so does the program bound of R203 -/

theorem test_ill_formed_0NNN : wellFormedWord 0x0123#16 = false ∧ decode 0x0123#16 = .error (.illegal .p0NNN) := by decide
theorem test_ill_formed_5XYN : wellFormedWord 0x5121#16 = false ∧ decode 0x5121#16 = .error (.illegal .p5XYN) := by decide
theorem test_ill_formed_8XYN : wellFormedWord 0x800F#16 = false ∧ decode 0x800F#16 = .error (.illegal .p8XYN) := by decide
theorem test_ill_formed_9XYN : wellFormedWord 0x9001#16 = false ∧ decode 0x9001#16 = .error (.illegal .p9XYN) := by decide
theorem test_ill_formed_EXNN : wellFormedWord 0xE29F#16 = false ∧ decode 0xE29F#16 = .error (.illegal .pEXNN) := by decide
theorem test_ill_formed_FXNN : wellFormedWord 0xF0FF#16 = false ∧ decode 0xF0FF#16 = .error (.illegal .pFXNN) := by decide

/-- Both neighbours of the two prefix-0 words that are instructions (R75: selected on the whole word). -/
theorem test_ill_formed_neighbours :
    [0x0001#16, 0x00E1#16, 0x01E0#16, 0x01EE#16, 0xF000#16].all (fun w => !wellFormedWord w) = true := by decide

theorem test_program_bound :
    wellFormedProgram (List.replicate 3584 0#8) = true ∧ wellFormedProgram (List.replicate 3585 0#8) = false := by
  simp [wellFormedProgram, -List.reduceReplicate]

theorem test_truncated : decodeBytes [0x12#8] = .error .truncated := by decide

/-! ### Decoding: one word for each row of spec/opcode_table.json, written out bit by bit (T, X, Y, N of R71, R74) -/

theorem test_decode_nop : decode 0b0000_0000_0000_0000#16 = .ok .nop := by decide
theorem test_decode_cls : decode 0b0000_0000_1110_0000#16 = .ok .cls := by decide
theorem test_decode_ret : decode 0b0000_0000_1110_1110#16 = .ok .ret := by decide
theorem test_decode_jp : decode 0b0001_1010_1011_1100#16 = .ok (.jp 0xABC#12) := by decide
theorem test_decode_call : decode 0b0010_0011_0000_0001#16 = .ok (.call 0x301#12) := by decide
theorem test_decode_seImm : decode 0b0011_0011_1010_1010#16 = .ok (.seImm 3#4 0xAA#8) := by decide
theorem test_decode_sneImm : decode 0b0100_1100_0001_0010#16 = .ok (.sneImm 0xC#4 0x12#8) := by decide
theorem test_decode_seReg : decode 0b0101_0001_0010_0000#16 = .ok (.seReg 1#4 2#4) := by decide
theorem test_decode_ldImm : decode 0b0110_1010_0100_0010#16 = .ok (.ldImm 0xA#4 0x42#8) := by decide
theorem test_decode_addImm : decode 0b0111_1111_0000_0001#16 = .ok (.addImm 0xF#4 0x01#8) := by decide
theorem test_decode_ldReg : decode 0b1000_0001_0010_0000#16 = .ok (.ldReg 1#4 2#4) := by decide
theorem test_decode_orReg : decode 0b1000_0011_0100_0001#16 = .ok (.orReg 3#4 4#4) := by decide
theorem test_decode_andReg : decode 0b1000_0101_0110_0010#16 = .ok (.andReg 5#4 6#4) := by decide
theorem test_decode_xorReg : decode 0b1000_0111_1000_0011#16 = .ok (.xorReg 7#4 8#4) := by decide
theorem test_decode_addReg : decode 0b1000_1001_1010_0100#16 = .ok (.addReg 9#4 0xA#4) := by decide
theorem test_decode_sub : decode 0b1000_1011_1100_0101#16 = .ok (.sub 0xB#4 0xC#4) := by decide
theorem test_decode_shr : decode 0b1000_1010_1011_0110#16 = .ok (.shr 0xA#4 0xB#4) := by decide
theorem test_decode_subn : decode 0b1000_1101_1110_0111#16 = .ok (.subn 0xD#4 0xE#4) := by decide
theorem test_decode_shl : decode 0b1000_1111_0000_1110#16 = .ok (.shl 0xF#4 0#4) := by decide
theorem test_decode_sneReg : decode 0b1001_0010_0001_0000#16 = .ok (.sneReg 2#4 1#4) := by decide
theorem test_decode_ldI : decode 0b1010_0011_0000_0001#16 = .ok (.ldI 0x301#12) := by decide
theorem test_decode_jpV0 : decode 0b1011_1111_1000_0000#16 = .ok (.jpV0 0xF80#12) := by decide
theorem test_decode_rnd : decode 0b1100_0110_0000_1111#16 = .ok (.rnd 6#4 0x0F#8) := by decide
theorem test_decode_drw : decode 0b1101_0001_0010_0101#16 = .ok (.drw 1#4 2#4 5#4) := by decide
theorem test_decode_skp : decode 0b1110_0010_1001_1110#16 = .ok (.skp 2#4) := by decide
theorem test_decode_sknp : decode 0b1110_0010_1010_0001#16 = .ok (.sknp 2#4) := by decide
theorem test_decode_ldVxDt : decode 0b1111_0100_0000_0111#16 = .ok (.ldVxDt 4#4) := by decide
theorem test_decode_ldVxK : decode 0b1111_0101_0000_1010#16 = .ok (.ldVxK 5#4) := by decide
theorem test_decode_ldDtVx : decode 0b1111_0001_0001_0101#16 = .ok (.ldDtVx 1#4) := by decide
theorem test_decode_ldStVx : decode 0b1111_0010_0001_1000#16 = .ok (.ldStVx 2#4) := by decide
theorem test_decode_addI : decode 0b1111_0011_0001_1110#16 = .ok (.addI 3#4) := by decide
theorem test_decode_ldF : decode 0b1111_0101_0010_1001#16 = .ok (.ldF 5#4) := by decide
theorem test_decode_ldB : decode 0b1111_0110_0011_0011#16 = .ok (.ldB 6#4) := by decide
theorem test_decode_ldMemVx : decode 0b1111_0111_0101_0101#16 = .ok (.ldMemVx 7#4) := by decide
theorem test_decode_ldVxMem : decode 0b1111_1000_0110_0101#16 = .ok (.ldVxMem 8#4) := by decide

/-- spec/95 section 1.4: the fields of `0xD125` and of `0x8AB6`. -/
theorem test_field_split :
    fieldT 0xD125#16 = 0xD#4 ∧ fieldX 0xD125#16 = 1#4 ∧ fieldY 0xD125#16 = 2#4 ∧ fieldN 0xD125#16 = 5#4
      ∧ fieldNN 0xD125#16 = 0x25#8 ∧ fieldNNN 0xD125#16 = 0x125#12 ∧ fieldNNN 0x8AB6#16 = 0xAB6#12 := by decide

/-! ### Single steps -/

/-- The start of every vector of spec/95: the reset state with `PC = 200`. -/
def start : State := { State.reset with pc := 0x200#12 }

/-- `start` with some registers and `I`. -/
def startWith (i : Index) (regs : List (Reg × Byte)) : State :=
  regs.foldl (fun s p => s.writeReg p.1 p.2) { start with i := i }

/-- What `read` sees after one step on the word `w` placed at `PC`. -/
def after {α : Type} (w : Nat) (s : State) (read : State → α) : Option α :=
  match step (s.withFetchWord 16 w) with
  | .next t => some (read t)
  | _ => none

/-- The fault kind in the record after one step. -/
def faultAfter (w : Nat) (s : State) : Option (Option FaultKind) := after w s fun t => t.fault.map (·.kind)

/-- spec/95 section 2.1. -/
theorem test_nop : after 0x0000 start (·.pc) = some 0x202#12 := by decide +kernel
theorem test_nop_wraps : after 0x0000 { start with pc := 0xFFE#12 } (·.pc) = some 0#12 := by decide +kernel
theorem test_illegal_word :
    after 0x0123 start (fun t => (t.pc, t.fault))
      = some (0x200#12, some ⟨.illegalInstruction, 0x200#12, some 0x0123#16⟩) := by decide +kernel

/-- R90 at `PC = FFF`: no word. -/
theorem test_fetch_bound :
    step { start with pc := 0xFFF#12 }
      = .next { start with pc := 0xFFF#12, fault := some ⟨.memoryAccess, 0xFFF#12, none⟩ } := rfl

/-- spec/95 S1 to S3, and section 2.2. -/
theorem test_jp : after 0x1FFF { start with pc := 0 } (·.pc) = some 0xFFF#12 := by decide +kernel
theorem test_jp_self : after 0x1200 start (·.pc) = some 0x200#12 := by decide +kernel
theorem test_call : after 0x2300 start (fun t => (t.pc, t.stack)) = some (0x300#12, [0x202#12]) := by decide +kernel
theorem test_call_at_FFE :
    after 0x2300 { start with pc := 0xFFE#12 } (fun t => (t.pc, t.stack, t.fault.map (·.kind)))
      = some (0xFFE#12, [], some .memoryAccess) := by decide +kernel
theorem test_ret :
    after 0x00EE { start with stack := [0x202#12, 0x456#12] } (fun t => (t.pc, t.stack))
      = some (0x456#12, [0x202#12]) := by decide +kernel
theorem test_ret_underflow :
    after 0x00EE start (fun t => (t.pc, t.fault)) = some (0x200#12, some ⟨.stackUnderflow, 0x200#12, some 0x00EE#16⟩) := by
  decide +kernel
theorem test_seImm : after 0x33AA (startWith 0 [(3#4, 0xAA#8)]) (·.pc) = some 0x204#12 := by decide +kernel
theorem test_seImm_wraps : after 0x3000 { start with pc := 0xFFE#12 } (·.pc) = some 0x002#12 := by decide +kernel
theorem test_sneImm_equal : after 0x4311 (startWith 0 [(3#4, 0x11#8)]) (·.pc) = some 0x202#12 := by decide +kernel
theorem test_sneImm_other : after 0x4311 (startWith 0 [(3#4, 0x12#8)]) (·.pc) = some 0x204#12 := by decide +kernel
theorem test_seReg : after 0x5120 (startWith 0 [(1#4, 0x10#8), (2#4, 0x10#8)]) (·.pc) = some 0x204#12 := by decide +kernel
theorem test_sneReg : after 0x9010 (startWith 0 [(1#4, 0x01#8)]) (·.pc) = some 0x204#12 := by decide +kernel
theorem test_sneReg_same : after 0x9000 start (·.pc) = some 0x202#12 := by decide +kernel
theorem test_jpV0 : after 0xB300 (startWith 0 [(0#4, 0x04#8)]) (·.pc) = some 0x304#12 := by decide +kernel
theorem test_jpV0_wraps : after 0xBF80 (startWith 0 [(0#4, 0xFF#8)]) (·.pc) = some 0x07F#12 := by decide +kernel

/-- What the ALU tests read: two registers and VF. -/
def aluView (x : Reg) (t : State) : Byte × Byte := (t.readReg x, t.readReg 0xF#4)

/-- spec/95 section 2.3, rows marked "any" (`FLAG_ALIAS`). -/
theorem test_ldImm : after 0x6A42 start (·.readReg 0xA#4) = some 0x42#8 := by decide +kernel
theorem test_addImm : after 0x70FF (startWith 0 [(0#4, 1#8), (0xF#4, 9#8)]) (aluView 0#4) = some (0#8, 9#8) := by decide +kernel
theorem test_addImm_vf : after 0x7F01 (startWith 0 [(0xF#4, 0xFF#8)]) (aluView 0#4) = some (0#8, 0#8) := by decide +kernel
theorem test_ldReg : after 0x8010 (startWith 0 [(0#4, 1#8), (1#4, 0xAB#8)]) (aluView 0#4) = some (0xAB#8, 0#8) := by
  decide +kernel
theorem test_orReg :
    after 0x8011 (startWith 0 [(0#4, 0xF0#8), (1#4, 0x0F#8), (0xF#4, 7#8)]) (aluView 0#4) = some (0xFF#8, 7#8) := by
  decide +kernel
theorem test_andReg : after 0x8012 (startWith 0 [(0#4, 0xF0#8), (1#4, 0x3C#8)]) (aluView 0#4) = some (0x30#8, 0#8) := by
  decide +kernel
theorem test_xorReg : after 0x8013 (startWith 0 [(0#4, 0xFF#8), (1#4, 0x0F#8)]) (aluView 0#4) = some (0xF0#8, 0#8) := by
  decide +kernel
theorem test_addReg_carry : after 0x8014 (startWith 0 [(0#4, 0x80#8), (1#4, 0x80#8)]) (aluView 0#4) = some (0#8, 1#8) := by
  decide +kernel
theorem test_addReg_no_carry :
    after 0x8014 (startWith 0 [(0#4, 0x7F#8), (1#4, 0x80#8)]) (aluView 0#4) = some (0xFF#8, 0#8) := by decide +kernel
theorem test_sub_no_borrow : after 0x8015 (startWith 0 [(0#4, 0x10#8), (1#4, 0x10#8)]) (aluView 0#4) = some (0#8, 1#8) := by
  decide +kernel
theorem test_sub_borrow : after 0x8015 (startWith 0 [(0#4, 0x20#8), (1#4, 0x80#8)]) (aluView 0#4) = some (0xA0#8, 0#8) := by
  decide +kernel
theorem test_shr : after 0x8016 (startWith 0 [(0#4, 0x81#8), (1#4, 3#8)]) (aluView 0#4) = some (0x10#8, 1#8) := by
  decide +kernel
theorem test_shr_count_8 : after 0x8016 (startWith 0 [(0#4, 0xFF#8), (1#4, 8#8)]) (aluView 0#4) = some (0#8, 1#8) := by
  decide +kernel
theorem test_subn_no_borrow :
    after 0x8017 (startWith 0 [(0#4, 0x20#8), (1#4, 0x80#8)]) (aluView 0#4) = some (0x60#8, 1#8) := by decide +kernel
theorem test_subn_borrow : after 0x8017 (startWith 0 [(0#4, 0x80#8), (1#4, 0x20#8)]) (aluView 0#4) = some (0xA0#8, 0#8) := by
  decide +kernel
theorem test_shl : after 0x801E (startWith 0 [(0#4, 0x81#8), (1#4, 1#8)]) (aluView 0#4) = some (2#8, 1#8) := by decide +kernel
theorem test_shl_count_is_itself : after 0x800E (startWith 0 [(0#4, 0xC0#8)]) (aluView 0#4) = some (0#8, 1#8) := by
  decide +kernel

/-- spec/95 section 2.3, the rows that tell the two readings of `FLAG_ALIAS` apart: `8FF4`, `80F4`, `8F15`, `80F6`, `8FFE`. -/
theorem test_alias_addReg_vf_vf :
    [FlagAlias.snapshot, .sequential].map
        (fun fa => (aluWithFlag fa 0xF#4 0xF#4 carryFlag addResult (startWith 0 [(0xF#4, 0x80#8)])).readReg 0xF#4)
      = [0#8, 2#8] := by decide +kernel
theorem test_alias_addReg_v0_vf :
    [FlagAlias.snapshot, .sequential].map
        (fun fa => aluView 0#4 (aluWithFlag fa 0#4 0xF#4 carryFlag addResult (startWith 0 [(0#4, 0x10#8), (0xF#4, 0xF8#8)])))
      = [(0x08#8, 1#8), (0x11#8, 1#8)] := by decide +kernel
theorem test_alias_sub_vf_v1 :
    [FlagAlias.snapshot, .sequential].map
        (fun fa => (aluWithFlag fa 0xF#4 1#4 noBorrowFlag subResult (startWith 0 [(0xF#4, 5#8), (1#4, 3#8)])).readReg 0xF#4)
      = [2#8, 0xFE#8] := by decide +kernel
theorem test_alias_shr_v0_vf :
    [FlagAlias.snapshot, .sequential].map
        (fun fa => aluView 0#4 (aluWithFlag fa 0#4 0xF#4 (fun a _ => shrFlag a) shrResult
          (startWith 0 [(0#4, 4#8), (0xF#4, 1#8)])))
      = [(2#8, 0#8), (4#8, 0#8)] := by decide +kernel
theorem test_alias_shl_vf_vf :
    [FlagAlias.snapshot, .sequential].map
        (fun fa => (aluWithFlag fa 0xF#4 0xF#4 (fun a _ => shlFlag a) shlResult
          (startWith 0 [(0xF#4, 0x81#8)])).readReg 0xF#4)
      = [0#8, 2#8] := by decide +kernel

/-- `C000` gives 0 whatever is drawn; `C00F` masks the drawn byte (spec/95 section 2.3). -/
theorem test_rnd_zero_mask : after 0xC000 start (·.readReg 0#4) = some 0#8 := by
  have h : after 0xC000 start (·.readReg 0#4) = some (Config.rng 0 &&& 0#8) := rfl
  rw [h, BitVec.and_zero]
theorem test_rnd_mask : after 0xC00F start (fun t => (t.readReg 0#4, t.draws)) = some (Config.rng 0 &&& 0x0F#8, 1) := rfl

/-- spec/95 section 2.4. -/
theorem test_ldI : after 0xAFFF start (·.i) = some 0xFFF#16 := by decide +kernel
theorem test_addI_top : after 0xF21E (startWith 0xFF0#16 [(2#4, 0x10#8)]) (·.i) = some 0x1000#16 := by decide +kernel
theorem test_addI_above :
    after 0xF21E (startWith 0xFF0#16 [(2#4, 0x20#8)]) (fun t => (t.i, t.fault.map (·.kind)))
      = some (0xFF0#16, some .undefinedBehaviour) := by decide +kernel
theorem test_ldF : after 0xF529 (startWith 0 [(5#4, 0x0F#8)]) (·.i) = some 0x09B#16 := by decide +kernel
theorem test_ldF_above : faultAfter 0xF529 (startWith 0 [(5#4, 0x10#8)]) = some (some .undefinedBehaviour) := by decide +kernel
theorem test_ldB :
    after 0xF033 (startWith 0xFFD#16 [(0#4, 0xFF#8)]) (fun t => [0xFFD, 0xFFE, 0xFFF].map t.readByte)
      = some [2#8, 5#8, 5#8] := by decide +kernel
theorem test_ldB_bound : faultAfter 0xF033 (startWith 0xFFE#16 [(0#4, 7#8)]) = some (some .memoryAccess) := by decide +kernel
theorem test_ldMemVx :
    after 0xF255 (startWith 0x300#16 [(0#4, 0x11#8), (1#4, 0x22#8), (2#4, 0x33#8)])
        (fun t => ([0x300, 0x301, 0x302, 0x303].map t.readByte, t.i))
      = some ([0x11#8, 0x22#8, 0x33#8, 0#8], 0x303#16) := by decide +kernel
theorem test_ldMemVx_bound :
    after 0xF155 (startWith 0xFFF#16 [(0#4, 1#8)]) (fun t => (t.readByte 0xFFF, t.fault.map (·.kind)))
      = some (0#8, some .memoryAccess) := by decide +kernel
theorem test_ldVxMem :
    after 0xF265 { start with i := 0x300#16, mem := [(0x300, 1#8), (0x301, 2#8), (0x302, 3#8)] }
        (fun t => ([0#4, 1#4, 2#4, 3#4].map t.readReg, t.i))
      = some ([1#8, 2#8, 3#8, 0#8], 0x303#16) := by decide +kernel
theorem test_ldVxMem_bound : faultAfter 0xFF65 (startWith 0xFF1#16 []) = some (some .memoryAccess) := by decide +kernel

/-- A framebuffer with the listed pixels set. -/
def screen (pixels : List (Nat × Nat)) : Framebuffer :=
  pixels.foldl (fun fb p => (fb.setPixel p.1 p.2 true).1) Framebuffer.clear

/-- spec/95 section 2.5. -/
theorem test_cls : after 0x00E0 { start with fb := screen [(0, 0), (63, 31)] } (·.fb) = some Framebuffer.clear := by
  decide +kernel
theorem test_drw_wraps :
    after 0xD011 { startWith 0x300#16 [(0#4, 0x3C#8), (1#4, 0x1F#8)] with mem := [(0x300, 0xFF#8)] }
        (fun t => (t.fb, t.readReg 0xF#4))
      = some (screen [(60, 31), (61, 31), (62, 31), (63, 31), (0, 31), (1, 31), (2, 31), (3, 31)], 0#8) := by decide +kernel
theorem test_drw_vf_origin :
    after 0xDFF1 { startWith 0x300#16 [(0xF#4, 1#8)] with mem := [(0x300, 0x80#8)], fb := screen [(1, 1)] }
        (fun t => (t.fb, t.readReg 0xF#4))
      = some (Framebuffer.clear, 1#8) := by decide +kernel

/-- spec/95 S7, on the default glyph "0" (`F0 90 90 90 F0`): 14 pixels, and none left after the second draw. -/
theorem test_glyph_zero :
    let d := Framebuffer.clear.drawRows 0 0 (Config.defaultFont.take 5)
    d = (screen [(0, 0), (1, 0), (2, 0), (3, 0), (0, 1), (3, 1), (0, 2), (3, 2), (0, 3), (3, 3), (0, 4), (1, 4), (2, 4),
      (3, 4)], false)
      ∧ d.1.drawRows 0 0 (Config.defaultFont.take 5) = (Framebuffer.clear, true) := by decide +kernel

/-- spec/43_display.md R152, the collision table: old pixel and incoming bit give new pixel and collision. -/
theorem test_set_pixel :
    ([(false, false), (false, true), (true, false), (true, true)].map fun p =>
      let r := (if p.1 then screen [(5, 6)] else Framebuffer.clear).setPixel 5 6 p.2
      (r.1.pixel 5 6, r.2)) = [(false, false), (true, false), (true, false), (false, true)] := by decide +kernel

/-- spec/95 section 2.6. -/
theorem test_skp : after 0xE29E { startWith 0 [(2#4, 7#8)] with key := some 7#4 } (·.pc) = some 0x204#12 := by decide +kernel
theorem test_skp_whole_byte :
    after 0xE29E { startWith 0 [(2#4, 0x17#8)] with key := some 7#4 } (·.pc) = some 0x202#12 := by decide +kernel
theorem test_sknp : after 0xE2A1 { startWith 0 [(2#4, 7#8)] with key := some 3#4 } (·.pc) = some 0x204#12 := by decide +kernel
theorem test_sknp_no_key : after 0xE2A1 (startWith 0 [(2#4, 7#8)]) (·.pc) = some 0x202#12 := by decide +kernel
theorem test_ldVxDt : after 0xF407 { start with dt := 0x3C#8 } (·.readReg 4#4) = some 0x3C#8 := by decide +kernel
theorem test_ldVxK_parks :
    after 0xF50A { start with key := some 5#4 } (fun t => (t.mode, t.waitReg, t.pc)) = some (.waitForKey, 5#4, 0x200#12) := by
  decide +kernel
theorem test_key_wait_service :
    step { start with mode := .waitForKey, waitReg := 5#4, key := some 5#4 }
      = .next { startWith 0 [(5#4, 5#8)] with pc := 0x202#12, waitReg := 5#4, key := some 5#4 } := rfl
theorem test_ldDtVx : after 0xF115 (startWith 0 [(1#4, 0x3C#8)]) (·.dt) = some 0x3C#8 := by decide +kernel
theorem test_ldStVx :
    after 0xF118 (startWith 0 [(1#4, 1#8)]) (fun t => (t.st, t.soundActive, t.tickTimers.soundActive))
      = some (1#8, true, false) := by decide +kernel
theorem test_tick_timers :
    ({ start with st := 5#8, mode := .waitForKey }.tickTimers).st = 4#8
      ∧ ({ start with st := 5#8, mode := .waitForKey }.tickTimers).dt = 0#8 := by decide +kernel

/-- spec/95 section 2.7 and R97. -/
theorem test_load_program :
    (start.loadProgram [0x12#8, 0x00#8]).2 = none ∧ (start.loadProgram [0x12#8, 0x00#8]).1.readByte 0x200 = 0x12#8
      ∧ (start.loadProgram [0x12#8, 0x00#8]).1.pc = 0x200#12 := by decide +kernel
theorem test_load_program_too_long :
    start.loadProgram (List.replicate 3585 0#8)
      = ({ start with fault := some ⟨.memoryAccess, 0x200#12, none⟩ }, some .memoryAccess) := by
  rcases start.loadProgram_cases (List.replicate 3585 0#8) with ⟨_, e⟩ | ⟨h, _⟩
  · rw [e]; rfl
  · simp [-List.reduceReplicate] at h
theorem test_step_at_power_on :
    step State.powerOn = .next { State.powerOn with fault := some ⟨.unimplementedState, 0#12, none⟩ } := rfl
theorem test_mode_codes : [Mode.init, .running, .waitForKey].map Mode.code = [0#2, 1#2, 2#2] := by decide
theorem test_fault_codes :
    [FaultKind.illegalInstruction, .memoryAccess, .registerAccess, .stackUnderflow, .unimplementedState,
      .undefinedBehaviour].map FaultKind.code = [1, 2, 3, 4, 5, 6] := by decide

/-- spec/95 section 2.6: the key operations, and a write through `state_mut` reduced to 8 bits (P7). -/
theorem test_key_down_up : ((start.keyDown 0xA#4).keyUp).key = none := by decide +kernel
theorem test_host_register_write :
    (start.stateMut (.reg 3 0x1FF)).1.readReg 3#4 = 0xFF#8 ∧ (start.stateMut (.reg 16 0)).2 = some .registerAccess
      ∧ (start.stateMut (.reg 16 0)).1.fault = some ⟨.registerAccess, 0x200#12, none⟩ := by
  decide +kernel

/-- P8, and R52's check at the end of memory (log 7). -/
theorem test_host_memory_write :
    (start.stateMut (.mem 0xFFF 0x1FF)).1.readByte 0xFFF = 0xFF#8
      ∧ (start.stateMut (.mem 0x1000 0)).1 = { start with fault := some ⟨.memoryAccess, 0x200#12, none⟩ } := by
  decide +kernel

/-! ### Witnesses -/

/-- DrawingTwice, KeyWait and others speak of a word fetched from memory: a machine with `w` at `PC = 200`. -/
def ready (w : Nat) : State := start.withFetchWord 16 w

theorem witness_EncodeInvertsDecode : decode 0xFF65#16 = .ok (.ldVxMem 0xF#4) := by decide

/-- At the last address a fetch reaches. -/
theorem witness_StepRunsDecodedInstruction :
    let s := { start with pc := 0xFFE#12, mem := [(0xFFE, 0x60#8), (0xFFF, 0x05#8)] }
    s.fault = none ∧ s.mode = .running ∧ s.pc.toNat + 1 < 4096
      ∧ decode (wordOfBytes (s.readByte s.pc.toNat) (s.readByte (s.pc.toNat + 1))) = .ok (.ldImm 0#4 5#8) := by
  decide +kernel

theorem witness_PlacedWordIsFetchedAndRun :
    State.reset.mem.wf = true ∧ decodeTableWord 16 0x6A42 = some (.ldImm 0xA#4 0x42#8) := by decide +kernel

theorem witness_FetchReadsTwoBytesBigEndian :
    start.fault = none ∧ start.mode = .running
      ∧ ({ start with pc := 0xFFF#12 } : State).pc = 0xFFF#12 ∧ ({ start with pc := 0xFFE#12 } : State).pc ≠ 0xFFF#12 := by
  decide +kernel

theorem witness_IllegalWordRaisesAndChangesNothing :
    (ready 0x0123).fault = none ∧ (ready 0x0123).mode = .running ∧ (ready 0x0123).fetchWord = .ok 0x0123#16
      ∧ decode 0x0123#16 = .error (.illegal .p0NNN) := by decide +kernel

theorem witness_StepInUnknownModeRaises :
    State.powerOn.fault = none ∧ State.powerOn.mode = .init ∧ ({ start with mode := .unused } : State).fault = none
      ∧ ({ start with mode := .unused } : State).mode = .unused := by decide +kernel

/-- One step with a word in the record (a return on an empty stack) and one with none (a step in the unused mode). -/
theorem witness_FaultingStepChangesOnlyFault :
    (∃ t, (ready 0x00EE).fault = none ∧ step (ready 0x00EE) = .next t
        ∧ t.fault = some ⟨.stackUnderflow, 0x200#12, some 0x00EE#16⟩)
      ∧ ∃ t, ({ start with mode := .unused } : State).fault = none ∧ step { start with mode := .unused } = .next t
        ∧ t.fault = some ⟨.unimplementedState, 0x200#12, none⟩ :=
  ⟨⟨_, rfl, rfl, rfl⟩, _, rfl, rfl, rfl⟩

/-- A machine with a fault recorded. -/
def faulted : State := { start with fault := some ⟨.stackUnderflow, 0x200#12, some 0x00EE#16⟩ }

/-- Both operations that leave a fault, the second at the longest program that fits, and one that puts another in its place. -/
theorem witness_RecordedFaultIsSticky :
    faulted.fault = some ⟨.stackUnderflow, 0x200#12, some 0x00EE#16⟩ ∧ HostOp.notStateMut .reset
      ∧ (∃ t, HostOp.apply .reset faulted = .next t ∧ t.fault = none)
      ∧ (List.replicate 3584 0#8 : List Byte).length ≤ 3584
      ∧ ∃ t, HostOp.apply (.loadProgram (List.replicate 3585 0#8)) faulted = .next t ∧ t.fault ≠ faulted.fault := by
  refine ⟨rfl, trivial, ⟨_, rfl, rfl⟩, by simp [-List.reduceReplicate], _, rfl, ?_⟩
  rcases faulted.loadProgram_cases (List.replicate 3585 0#8) with ⟨_, e⟩ | ⟨h, _⟩
  · rw [e]; decide +kernel
  · simp [-List.reduceReplicate] at h

/-- Each kind and condition at its bound: the first address or value that raises. -/
theorem witness_InstructionsRaiseExactlyTheirFaults :
    raisesWhen start .ret .stackUnderflow
      ∧ raisesWhen { start with pc := 0xFFE#12 } (.call 0#12) .memoryAccess
      ∧ raisesWhen { start with pc := 0xFFF#12 } (.call 0#12) .memoryAccess
      ∧ raisesWhen { start with pc := 0xFFD#12, stack := List.replicate 4096 0#12 } (.call 0#12) .undefinedBehaviour
      ∧ raisesWhen (startWith 0xFFB#16 []) (.drw 0#4 0#4 5#4) .memoryAccess
      ∧ raisesWhen (startWith 0xFFF#16 [(0#4, 2#8)]) (.addI 0#4) .undefinedBehaviour
      ∧ raisesWhen (startWith 0 [(0#4, 16#8)]) (.ldF 0#4) .undefinedBehaviour
      ∧ raisesWhen (startWith 0xFFE#16 []) (.ldB 0#4) .memoryAccess
      ∧ raisesWhen (startWith 0xFFF#16 []) (.ldMemVx 1#4) .memoryAccess
      ∧ raisesWhen (startWith 0xFF1#16 []) (.ldVxMem 0xF#4) .memoryAccess := by
  refine ⟨⟨rfl, rfl⟩, .inl (.inl ⟨rfl, rfl⟩), .inl (.inr ⟨rfl, rfl⟩), .inr ⟨rfl, by decide, ?_⟩, ⟨rfl, by decide⟩,
    ⟨rfl, by decide⟩, ⟨rfl, by decide⟩, ⟨rfl, by decide⟩, ⟨rfl, by decide⟩, ⟨rfl, by decide⟩⟩
  simp [-List.reduceReplicate]

/-- The other hypotheses of the same obligation: `exec` of each of these answers a next state. -/
theorem witness_exec_answers_next :
    start.fault = none ∧ (∃ t, exec .ret start = .next t ∧ t.fault = some ⟨.stackUnderflow, 0x200#12, some 0x00EE#16⟩)
      ∧ ∃ t, exec (.ldB 0#4) (startWith 0xFFE#16 []) = .next t
          ∧ t.fault = some ⟨.memoryAccess, 0x200#12, some 0xF033#16⟩ :=
  ⟨rfl, ⟨_, rfl, rfl⟩, _, rfl, by decide +kernel⟩

/-- Parked, without a key and with one. -/
def parked (k : Option Nibble) : State := { ready 0xF50A with mode := .waitForKey, waitReg := 5#4, key := k }

theorem witness_KeyWaitServiceCompletesTheWait :
    (parked none).fault = none ∧ (parked none).mode = .waitForKey ∧ (parked none).key = none
      ∧ (parked (some 0xF#4)).fault = none ∧ (parked (some 0xF#4)).mode = .waitForKey
      ∧ (parked (some 0xF#4)).key = some 0xF#4 := by decide +kernel

theorem witness_StepKeepsTheStateInvariant : State.reset.inv ∧ ∃ t, step State.reset = .next t :=
  ⟨⟨by decide +kernel, by decide +kernel, by decide +kernel, by decide +kernel⟩, _, rfl⟩

/-- At the edges of the invariant: `I` at the memory size and a full stack. -/
theorem witness_StepKeepsTheStateInvariant_edge :
    State.inv { start with i := 0x1000#16, stack := List.replicate 4096 0#12 } :=
  ⟨rfl, by decide, by simp [-List.reduceReplicate], by decide⟩

theorem witness_HostOperationsKeepTheStateInvariant :
    HostOp.notStateMut (.loadProgram [0x12#8, 0x00#8]) ∧ HostOp.loadProgram [0x12#8, 0x00#8] ≠ .step ∧ State.reset.inv
      ∧ ∃ t, HostOp.apply (.loadProgram [0x12#8, 0x00#8]) State.reset = .next t :=
  ⟨trivial, by decide, witness_StepKeepsTheStateInvariant.1, _, rfl⟩

/-- A machine that is parked, and one that parks in this step. -/
theorem witness_ParkedMachineStandsAtItsKeyWait :
    HostOp.notStateMut .step ∧ (parked none).parkedAtKeyWait ∧ (ready 0xF50A).parkedAtKeyWait
      ∧ ∃ t, HostOp.apply .step (ready 0xF50A) = .next t ∧ t.mode = .waitForKey := by
  refine ⟨trivial, fun _ => by decide +kernel, fun h => absurd h (by decide +kernel), _, rfl, by decide +kernel⟩

theorem witness_FaultRecordNamesTheInstructionAtPc :
    HostOp.notStateMut .step ∧ (ready 0x00EE).faultRecordFits
      ∧ ∃ t, HostOp.apply .step (ready 0x00EE) = .next t ∧ t.fault = some ⟨.stackUnderflow, 0x200#12, some 0x00EE#16⟩ :=
  ⟨trivial, (fun _ h => by cases h), _, rfl, rfl⟩

/-- The three clauses of `2NNN`, each at the ends of its range. -/
theorem witness_CallPushesTheReturnAddress :
    (({ start with pc := 0xFFD#12, stack := List.replicate 4095 0#12 } : State).pc.toNat + 2 < 4096
        ∧ ({ start with pc := 0xFFD#12, stack := List.replicate 4095 0#12 } : State).stack.length < 4096)
      ∧ 4096 ≤ ({ start with pc := 0xFFE#12 } : State).pc.toNat + 2
      ∧ 4096 ≤ ({ start with pc := 0xFFF#12 } : State).pc.toNat + 2
      ∧ 4096 ≤ ({ start with stack := List.replicate 4096 0#12 } : State).stack.length := by
  simp [-List.reduceReplicate]

theorem witness_ReturnPopsTheStack :
    ({ start with stack := [0x202#12, 0x456#12] } : State).stack = [0x202#12] ++ [0x456#12] ∧ start.stack = [] :=
  ⟨rfl, rfl⟩

theorem witness_CallThenReturnResumesAfterTheCall :
    start.pc.toNat + 2 < 4096 ∧ start.stack.length < 4096
      ∧ ∃ t, exec (.call 0x300#12) start = .next t ∧ ({ start with stack := [0x202#12] } : State).stack = t.stack :=
  ⟨by decide, by decide, _, rfl, by decide +kernel⟩

theorem witness_FlagAliasReadings : (0#4 : Reg) ≠ 0xF#4 ∧ (0xE#4 : Reg) ≠ 0xF#4 := by decide

theorem witness_RegisterSkipsAddFourOrTwo : (1#4 : Nibble) ≠ 0#4 ∧ (0xF#4 : Nibble) ≠ 0#4 := by decide

/-- The two clauses meet at a sum of 4096, which is in the first. -/
theorem witness_AddToIndexRaisesAboveMemorySize :
    (startWith 0xFFF#16 [(0#4, 1#8)]).i.toNat + ((startWith 0xFFF#16 [(0#4, 1#8)]).readReg 0#4).toNat ≤ 4096
      ∧ 4096 < (startWith 0xFFF#16 [(0#4, 2#8)]).i.toNat + ((startWith 0xFFF#16 [(0#4, 2#8)]).readReg 0#4).toNat := by
  decide +kernel

theorem witness_GlyphAddressForDigitsOnly :
    ((startWith 0 [(5#4, 15#8)]).readReg 5#4).toNat ≤ 15 ∧ 15 < ((startWith 0 [(5#4, 16#8)]).readReg 5#4).toNat := by
  decide +kernel

theorem witness_DecimalDigitsAreStored :
    start.mem.wf = true ∧ (startWith 0xFFD#16 []).i.toNat + 2 < 4096 ∧ 4096 ≤ (startWith 0xFFE#16 []).i.toNat + 2 := by
  decide +kernel

theorem witness_RegistersAreSavedAscending :
    start.mem.wf = true ∧ (startWith 0xFF0#16 []).i.toNat + (0xF#4 : Reg).toNat < 4096
      ∧ 4096 ≤ (startWith 0xFF1#16 []).i.toNat + (0xF#4 : Reg).toNat := by decide +kernel

theorem witness_RegistersAreLoadedAscending :
    (startWith 0xFFF#16 []).i.toNat + (0#4 : Reg).toNat < 4096
      ∧ 4096 ≤ (startWith 0x1000#16 []).i.toNat + (0#4 : Reg).toNat := by decide +kernel

theorem witness_SavedRegistersAreRestored :
    (startWith 0x300#16 []).mem.wf = true ∧ (startWith 0x300#16 []).i.toNat + (2#4 : Reg).toNat < 4096
      ∧ ∃ t, exec (.ldMemVx 2#4) (startWith 0x300#16 []) = .next t
          ∧ ({ t with i := 0x300#16 } : State).mem = t.mem
          ∧ ({ t with i := 0x300#16 } : State).i = (startWith 0x300#16 []).i :=
  ⟨by decide +kernel, by decide +kernel, _, rfl, rfl, rfl⟩

/-- The bound of `DXYN` is on `I + N` (conflict C4): both sides of it, with a row and without one. -/
theorem witness_DrawXorsTheSpriteAndReportsCollision :
    (startWith 0xFF0#16 []).i.toNat + (0xF#4 : Nibble).toNat < 4096
      ∧ 4096 ≤ (startWith 0xFF1#16 []).i.toNat + (0xF#4 : Nibble).toNat
      ∧ (startWith 0xFFF#16 []).i.toNat + (0#4 : Nibble).toNat < 4096
      ∧ 4096 ≤ (startWith 0x1000#16 []).i.toNat + (0#4 : Nibble).toNat := by decide +kernel

/-- A one-row sprite drawn on a clear screen. -/
def drawing : State := { startWith 0x300#16 [] with mem := [(0x300, 0x80#8)] }

theorem witness_DrawingTwiceRestoresTheFramebuffer :
    (0#4 : Reg) ≠ 0xF#4 ∧ (1#4 : Reg) ≠ 0xF#4 ∧ drawing.i.toNat + (1#4 : Nibble).toNat < 4096
      ∧ (∃ t u, exec (.drw 0#4 1#4 1#4) drawing = .next t ∧ exec (.drw 0#4 1#4 1#4) t = .next u)
      ∧ drawing.fb.pixel 0 0 = false ∧ spriteBit [drawing.readByte 0x300] 0 0 0 0 = true :=
  ⟨by decide, by decide, by decide +kernel, ⟨_, _, rfl, rfl⟩, by decide +kernel, by decide +kernel⟩

theorem witness_TimerInstructionsMoveOneByte :
    (HostOp.notStateMut .tickTimers ∧ ∃ t, HostOp.apply .tickTimers { start with dt := 1#8 } = .next t ∧ t.dt ≠ 1#8)
      ∧ HostOp.notStateMut .step ∧ ∃ t, HostOp.apply .step ({ ready 0xF115 with dt := 1#8 } : State) = .next t ∧ t.dt ≠ 1#8 :=
  ⟨⟨trivial, _, rfl, by decide +kernel⟩, trivial, _, rfl, by decide +kernel⟩

theorem witness_TickDecrementsNonZeroTimers :
    start.dt = 0#8 ∧ start.st = 0#8 ∧ ({ start with dt := 1#8, st := 0xFF#8 } : State).dt ≠ 0#8
      ∧ ({ start with dt := 1#8, st := 0xFF#8 } : State).st ≠ 0#8 := by decide +kernel

/-- `RESET_CLEARS_FB` is open, so no state shows one of its two values: each run meets one clause or the other. -/
theorem witness_ResetLeavesTheResetState : Config.resetClearsFb = true ∨ Config.resetClearsFb = false := by
  cases Config.resetClearsFb <;> simp

/-- The two lengths at which the clauses meet. -/
theorem witness_LoadProgramCopiesToTheLoadOffset :
    (List.replicate 3584 1#8 : List Byte).length ≤ 3584 ∧ 3584 < (List.replicate 3585 1#8 : List Byte).length := by
  simp [-List.reduceReplicate]

theorem witness_RegisterAccessComesFromTheHostOnly :
    (0xF#4 : Reg).toNat < 16 ∧ 16 ≤ 16
      ∧ ∃ t, (ready 0x0123).fault = none ∧ step (ready 0x0123) = .next t
          ∧ t.fault = some ⟨.illegalInstruction, 0x200#12, some 0x0123#16⟩ :=
  ⟨by decide, by decide, _, rfl, rfl, rfl⟩

theorem witness_InstructionsWriteOnlyTheirElements : ∃ t, exec (.ldVxMem 2#4) (startWith 0x300#16 []) = .next t := ⟨_, rfl⟩

theorem witness_OnlyDestinationsAndFlagsChange :
    (∃ t, exec (.ldVxMem 2#4) (startWith 0x300#16 []) = .next t) ∧ ¬ mayWriteReg (.ldVxMem 2#4) 3#4
      ∧ mayWriteReg (.ldVxMem 2#4) 2#4 ∧ ¬ mayWriteReg (.addImm 0#4 1#8) 0xF#4 :=
  ⟨⟨_, rfl⟩, by simp [mayWriteReg], by simp [mayWriteReg], by simp [mayWriteReg]⟩

theorem witness_StoresStayInTheirRange :
    (startWith 0x300#16 []).mem.wf = true ∧ (∃ t, exec (.ldMemVx 2#4) (startWith 0x300#16 []) = .next t)
      ∧ ¬ mayStoreTo (startWith 0x300#16 []) (.ldMemVx 2#4) 0x2FF
      ∧ mayStoreTo (startWith 0x300#16 []) (.ldMemVx 2#4) 0x300
      ∧ mayStoreTo (startWith 0x300#16 []) (.ldMemVx 2#4) 0x302
      ∧ ¬ mayStoreTo (startWith 0x300#16 []) (.ldMemVx 2#4) 0x303 :=
  ⟨by decide +kernel, ⟨_, rfl⟩, by simp [mayStoreTo, startWith], by simp [mayStoreTo, startWith],
    by simp [mayStoreTo, startWith], by simp [mayStoreTo, startWith]⟩

/-- Each transition of `MODE`: out of INIT by `reset()`, into the key wait, and out of it. -/
theorem witness_ModeChangesOnlyByItsTransitions :
    (HostOp.notStateMut .reset ∧ ∃ t, HostOp.apply .reset State.powerOn = .next t ∧ t.mode ≠ State.powerOn.mode)
      ∧ (HostOp.notStateMut .step ∧ ∃ t, HostOp.apply .step (ready 0xF50A) = .next t ∧ t.mode ≠ (ready 0xF50A).mode)
      ∧ ∃ t, HostOp.apply .step (parked (some 1#4)) = .next t ∧ t.mode ≠ (parked (some 1#4)).mode :=
  ⟨⟨trivial, _, rfl, by decide +kernel⟩, ⟨trivial, _, rfl, by decide +kernel⟩, _, rfl, by decide +kernel⟩

theorem witness_SelfJumpStaysForEver :
    (ready 0x1200).fault = none ∧ (ready 0x1200).mode = .running
      ∧ (ready 0x1200).fetchWord = .ok (encode (.jp (ready 0x1200).pc)) := by decide +kernel

theorem witness_SoundTimerIsNeverRead : ∃ t, step (ready 0xF118) = .next t := ⟨_, rfl⟩

theorem witness_KeyIsReadOnlyByTheKeySkips :
    (∃ t, exec (.skp 2#4) { start with key := some 7#4 } = .next t)
      ∧ ∀ x, Instr.ldVxK 5#4 ≠ .skp x ∧ Instr.ldVxK 5#4 ≠ .sknp x :=
  ⟨⟨_, rfl⟩, by intro x; simp⟩

end Sys2Proof.Tests
end

/-! # The state's family: decoding, effects, invariants, frames and noninterference

The first three parts are shared facts: decoding drops no bit, what an instruction can do (`Effect`, `exec_cases`), what
a step and a host operation can do. The rest settles the statements from them. -/

namespace Sys2Proof

/-! ## Decoding drops no bit (spec/30_encoding.md R71, R72, R75) -/

section Fields
variable (w : Word)

/-- A word is `T` and its low triplet (format `TNNN`). -/
theorem wordTNNN_fields : wordTNNN (fieldT w) (fieldNNN w) = w := by
  apply BitVec.eq_of_toNat_eq
  rw [wordTNNN_toNat, fieldT_toNat, fieldNNN_toNat]
  omega

/-- A word is `T`, `X` and its low byte (format `TXNN`). -/
theorem wordTXNN_fields : wordTXNN (fieldT w) (fieldX w) (fieldNN w) = w := by
  apply BitVec.eq_of_toNat_eq
  rw [wordTXNN_toNat, fieldT_toNat, fieldX_toNat, fieldNN_toNat]
  omega

/-- A word is its four nibbles (format `TXYN`). -/
theorem wordTXYN_fields : wordTXYN (fieldT w) (fieldX w) (fieldY w) (fieldN w) = w := by
  apply BitVec.eq_of_toNat_eq
  rw [wordTXYN_toNat, fieldT_toNat, fieldX_toNat, fieldY_toNat, fieldN_toNat]
  omega

end Fields

section EncodeOfDecode
variable {w : Word} {i : Instr}

theorem wordTNNN_of_fieldT {t : Nibble} (ht : (fieldT w).toNat = t.toNat) : wordTNNN t (fieldNNN w) = w := by
  rw [← BitVec.eq_of_toNat_eq ht, wordTNNN_fields]

theorem wordTXNN_of_fieldT {t : Nibble} (ht : (fieldT w).toNat = t.toNat) :
    wordTXNN t (fieldX w) (fieldNN w) = w := by
  rw [← BitVec.eq_of_toNat_eq ht, wordTXNN_fields]

theorem wordTXNN_of_selector {t : Nibble} {nn : Byte} (ht : (fieldT w).toNat = t.toNat)
    (hn : (fieldNN w).toNat = nn.toNat) : wordTXNN t (fieldX w) nn = w := by
  rw [← BitVec.eq_of_toNat_eq hn, wordTXNN_of_fieldT ht]

theorem wordTXYN_of_selector {t n : Nibble} (ht : (fieldT w).toNat = t.toNat) (hn : (fieldN w).toNat = n.toNat) :
    wordTXYN t (fieldX w) (fieldY w) n = w := by
  rw [← BitVec.eq_of_toNat_eq ht, ← BitVec.eq_of_toNat_eq hn, wordTXYN_fields]

theorem encode_of_decodeFixed (h : decodeFixed w = .ok i) : encode i = w := by
  unfold decodeFixed at h
  split at h
  · cases h; symm; assumption
  · split at h
    · cases h; symm; assumption
    · split at h
      · cases h; symm; assumption
      · cases h

theorem encode_of_decodeAlu (ht : (fieldT w).toNat = 8) (h : decodeAlu w = .ok i) : encode i = w := by
  unfold decodeAlu at h
  split at h <;> cases h <;> exact wordTXYN_of_selector ht ‹_›

theorem encode_of_decodeKey (ht : (fieldT w).toNat = 14) (h : decodeKey w = .ok i) : encode i = w := by
  unfold decodeKey at h
  split at h <;> cases h <;> exact wordTXNN_of_selector ht ‹_›

theorem encode_of_decodeMisc (ht : (fieldT w).toNat = 15) (h : decodeMisc w = .ok i) : encode i = w := by
  unfold decodeMisc at h
  split at h <;> cases h <;> exact wordTXNN_of_selector ht ‹_›

/-- A word that decodes is the word of its instruction: decoding drops no bit (spec/30_encoding.md R72, R75). -/
theorem encode_of_decode (h : decode w = .ok i) : encode i = w := by
  unfold decode at h
  split at h
  case h_1 => exact encode_of_decodeFixed h
  case h_9 ht => exact encode_of_decodeAlu ht h
  case h_15 ht => exact encode_of_decodeKey ht h
  case h_16 =>
    have hlt := (fieldT w).isLt
    have ht : (fieldT w).toNat = 15 := by simp only [imp_false] at *; omega
    exact encode_of_decodeMisc ht h
  case h_6 | h_10 =>
    split at h
    · cases h
      exact wordTXYN_of_selector ‹_› (congrArg BitVec.toNat ‹fieldN w = 0#4›)
    · cases h
  case h_2 | h_3 | h_11 | h_12 => cases h; exact wordTNNN_of_fieldT ‹_›
  case h_4 | h_5 | h_7 | h_8 | h_13 => cases h; exact wordTXNN_of_fieldT ‹_›
  case h_14 => cases h; exact wordTXYN_of_selector ‹_› rfl

end EncodeOfDecode
end Sys2Proof

namespace Sys2Proof.Machine

/-! ## What an instruction can do -/

/-- What the rule of an instruction that completes leaves of `s` before the commit, and the next PC it proposes: one
constructor per shape of write, each with the instructions that have it. A rule that raises leaves nothing. -/
inductive Effect (s : State) : Instr → State → Nat → Prop
  /-- Nothing but `PC`: `0000`, the jumps and the skips. -/
  | onlyPc {i : Instr} {n : Nat} : Effect s i s n
  /-- One register, the destination. -/
  | register {i : Instr} {x : Reg} {b : Byte} (he : .regs ∈ mayWrite i) (hx : mayWriteReg i x) :
    Effect s i (s.writeReg x b) s.seqPc
  /-- VF as a flag, then the destination (spec/41_alu.md R121). -/
  | flagThenRegister {i : Instr} {x : Reg} {f b : Byte} (he : .regs ∈ mayWrite i) (hf : mayWriteReg i 0xF#4)
    (hx : mayWriteReg i x) : Effect s i ((s.writeFlag f).writeReg x b) s.seqPc
  /-- A drawn byte, masked (spec/41_alu.md R133). -/
  | drawn {x : Reg} {nn b : Byte} : Effect s (.rnd x nn) (s.drawByte.2.writeReg x b) s.seqPc
  | cleared : Effect s .cls (s.setFramebuffer Framebuffer.clear) s.seqPc
  | sprite {x y : Reg} {n : Nibble} {fb : Framebuffer} {f : Byte} :
    Effect s (.drw x y n) ((s.setFramebuffer fb).writeFlag f) s.seqPc
  /-- `I`, never above the memory size. -/
  | index {i : Instr} {n : Nat} (he : .index ∈ mayWrite i) (hn : n ≤ 4096) : Effect s i (s.setIndex n) s.seqPc
  | pushed {nnn a : Addr} (hroom : s.stack.length < 4096) :
    Effect s (.call nnn) (s.setStack (s.stack ++ [a])) nnn.toNat
  | popped {rest : List Addr} {a : Addr} (hstack : s.stack = rest ++ [a]) : Effect s .ret (s.setStack rest) a.toNat
  | digits {x : Reg} (hfits : s.i.toNat + 2 < 4096) :
    Effect s (.ldB x) (s.setMem (Memory.writeBytes s.mem s.i.toNat (decimalDigits (s.readReg x)))) s.seqPc
  | saved {x : Reg} (hfits : s.i.toNat + x.toNat < 4096) :
    Effect s (.ldMemVx x)
      ((s.setMem (Memory.writeBytes s.mem s.i.toNat (s.regsUpTo x))).setIndex (s.i.toNat + x.toNat + 1)) s.seqPc
  | loaded {x : Reg} {v : Vector Byte 16} (hfits : s.i.toNat + x.toNat < 4096)
    (hkept : ∀ r : Reg, x.toNat < r.toNat → ({ s with v := v } : State).readReg r = s.readReg r) :
    Effect s (.ldVxMem x) (({ s with v := v } : State).setIndex (s.i.toNat + x.toNat + 1)) s.seqPc
  /-- `FX0A` parks and proposes the `PC` it has (spec/44_timers_keys.md R164). -/
  | parked {x : Reg} : Effect s (.ldVxK x) ((s.setWaitReg x).setMode .waitForKey) s.pc.toNat
  | delayTimer {x : Reg} {b : Byte} : Effect s (.ldDtVx x) (s.setDelayTimer b) s.seqPc
  | soundTimer {x : Reg} {b : Byte} : Effect s (.ldStVx x) (s.setSoundTimer b) s.seqPc

/-- The effect of `FX65` (spec/42_index_memory.md R145): the bytes loaded go to `V0..Vx` and no further. -/
theorem Effect.of_writeRegs {s : State} {x : Reg} {bs : List Byte} (hfits : s.i.toNat + x.toNat < 4096)
    (hlen : bs.length = x.toNat + 1) :
    Effect s (.ldVxMem x) ((s.writeRegs 0 bs).setIndex (s.i.toNat + x.toNat + 1)) s.seqPc := by
  obtain ⟨v, hv⟩ := s.writeRegs_eq 0 bs
  have hx := x.isLt
  rw [hv]
  refine .loaded hfits fun r hr => ?_
  rw [← hv, s.readReg_writeRegs (by omega), if_neg (by omega)]

/-- The two ends of an instruction: it raises, for the reason its rule gives, or it completes with its effect. -/
theorem exec_cases (i : Instr) (s : State) :
    (∃ k, raisesWhen s i k ∧ exec i s = .next (s.raise k (some (encode i)))) ∨
    (∃ u n, Effect s i u n ∧ exec i s = .next (u.commitPc n)) := by
  cases i with
  | nop | jp _ | seImm _ _ | sneImm _ _ | seReg _ _ | sneReg _ _ | jpV0 _ | skp _ | sknp _ =>
    exact .inr ⟨_, _, .onlyPc, rfl⟩
  | ldImm _ _ | addImm _ _ | ldReg _ _ | orReg _ _ | andReg _ _ | xorReg _ _ | ldVxDt _ =>
    exact .inr ⟨_, _, .register (by simp [mayWrite]) rfl, rfl⟩
  | addReg _ _ | sub _ _ | shr _ _ | subn _ _ | shl _ _ =>
    exact .inr ⟨_, _, .flagThenRegister (by simp [mayWrite]) (.inr rfl) (.inl rfl), rfl⟩
  | rnd _ _ => exact .inr ⟨_, _, .drawn, rfl⟩
  | cls => exact .inr ⟨_, _, .cleared, rfl⟩
  | ldVxK _ => exact .inr ⟨_, _, .parked, rfl⟩
  | ldDtVx _ => exact .inr ⟨_, _, .delayTimer, rfl⟩
  | ldStVx _ => exact .inr ⟨_, _, .soundTimer, rfl⟩
  | ldI nnn => exact .inr ⟨_, _, .index (by simp [mayWrite]) (n := nnn.toNat) (by omega), rfl⟩
  | ret =>
    rcases execRet_cases s with ⟨h, e⟩ | ⟨rest, a, h, e⟩
    · exact .inl ⟨_, ⟨rfl, h⟩, e⟩
    · exact .inr ⟨_, _, .popped h, e⟩
  | call nnn =>
    rcases execCall_cases s nnn with ⟨h, e⟩ | ⟨h, hfull, e⟩ | ⟨_, hroom, e⟩
    · have hpc : s.pc = 0xFFE#12 ∨ s.pc = 0xFFF#12 := by bv_omega
      exact .inl ⟨_, .inl (hpc.imp (⟨rfl, ·⟩) (⟨rfl, ·⟩)), e⟩
    · exact .inl ⟨_, .inr ⟨rfl, h, hfull⟩, e⟩
    · exact .inr ⟨_, _, .pushed hroom, e⟩
  | drw x y n =>
    rcases execDrw_cases s x y n with ⟨h, e⟩ | ⟨_, _, _, e⟩
    · exact .inl ⟨_, ⟨rfl, h⟩, e⟩
    · exact .inr ⟨_, _, .sprite, e⟩
  | addI x =>
    rcases execAddI_cases s x with ⟨h, e⟩ | ⟨h, e⟩
    · exact .inl ⟨_, ⟨rfl, h⟩, e⟩
    · exact .inr ⟨_, _, .index (by simp [mayWrite]) h, e⟩
  | ldF x =>
    rcases execLdF_cases s x with ⟨h, e⟩ | ⟨h, e⟩
    · exact .inl ⟨_, ⟨rfl, h⟩, e⟩
    · exact .inr ⟨_, _, .index (by simp [mayWrite]) (by omega), e⟩
  | ldB x =>
    rcases execLdB_cases s x with ⟨h, e⟩ | ⟨h, e⟩
    · exact .inl ⟨_, ⟨rfl, by omega⟩, e⟩
    · exact .inr ⟨_, _, .digits h, e⟩
  | ldMemVx x =>
    rcases execLdMemVx_cases s x with ⟨h, e⟩ | ⟨h, e⟩
    · exact .inl ⟨_, ⟨rfl, h⟩, e⟩
    · exact .inr ⟨_, _, .saved h, e⟩
  | ldVxMem x =>
    rcases execLdVxMem_cases s x with ⟨h, e⟩ | ⟨h, e⟩
    · exact .inl ⟨_, ⟨rfl, h⟩, e⟩
    · exact .inr ⟨_, _, .of_writeRegs h (by simp), e⟩

/-- The same, of a next state that is given. -/
theorem exec_next_cases {i : Instr} {s t : State} (h : exec i s = .next t) :
    (∃ k, raisesWhen s i k ∧ t = s.raise k (some (encode i))) ∨
    (∃ u n, Effect s i u n ∧ t = u.commitPc n) := by
  rcases exec_cases i s with ⟨k, hk, e⟩ | ⟨u, n, he, e⟩
  · exact .inl ⟨k, hk, by rw [e] at h; cases h; rfl⟩
  · exact .inr ⟨u, n, he, by rw [e] at h; cases h; rfl⟩

/-- No instruction names a register by an index that is none (spec/10_state.md R25). -/
theorem raisesWhen_ne_registerAccess {s : State} {i : Instr} {k : FaultKind} (h : raisesWhen s i k) :
    k ≠ .registerAccess := by
  rintro rfl
  cases i <;> simp [raisesWhen] at h

section EffectFrame
variable {s u : State} {i : Instr} {n : Nat}

theorem Effect.fault_eq (he : Effect s i u n) : u.fault = s.fault := by cases he <;> rfl

theorem Effect.key_eq (he : Effect s i u n) : u.key = s.key := by cases he <;> rfl

/-- Only `FX0A` changes the mode: it parks (spec/10_state.md R35). -/
theorem Effect.mode_cases (he : Effect s i u n) :
    u.mode = s.mode ∨
    ∃ x, i = .ldVxK x ∧ u = (s.setWaitReg x).setMode .waitForKey ∧ n = s.pc.toNat := by
  cases he with
  | parked => exact .inr ⟨_, rfl, rfl, rfl⟩
  | _ => exact .inl rfl

/-- Only the registers the instruction may write change (spec/10_state.md R23). -/
theorem Effect.readReg_eq (he : Effect s i u n) {r : Reg} (hr : ¬ mayWriteReg i r) : u.readReg r = s.readReg r := by
  have ne_of_written {x : Reg} (hx : mayWriteReg i x) : r ≠ x := fun e => hr (e ▸ hx)
  cases he with
  | register _ hx => exact s.readReg_writeReg_ne (ne_of_written hx) _
  | flagThenRegister _ hf hx =>
    exact ((s.writeFlag _).readReg_writeReg_ne (ne_of_written hx) _).trans
      (s.readReg_writeReg_ne (ne_of_written hf) _)
  | drawn => exact s.drawByte.2.readReg_writeReg_ne hr _
  | sprite => exact (s.setFramebuffer _).readReg_writeReg_ne hr _
  | loaded _ hkept => exact hkept r (Nat.not_le.mp hr)
  | onlyPc | cleared | index | pushed | popped | digits | saved | parked | delayTimer | soundTimer => rfl

/-- An instruction keeps the state invariant (spec/10_state.md R39). -/
theorem Effect.inv (he : Effect s i u n) (h : s.inv) : u.inv := by
  obtain ⟨hmem, hindex, hstack, hmode⟩ := h
  cases he with
  | onlyPc | register | flagThenRegister | drawn | cleared | sprite | delayTimer | soundTimer =>
    exact ⟨hmem, hindex, hstack, hmode⟩
  | index _ hn => exact ⟨hmem, by rw [s.setIndex_toNat (by omega)]; exact hn, hstack, hmode⟩
  | pushed hroom => exact ⟨hmem, hindex, by simpa using hroom, hmode⟩
  | popped he => exact ⟨hmem, hindex, by simp [he] at hstack ⊢; omega, hmode⟩
  | digits hfits => exact ⟨Memory.writeBytes_wf hmem (by rw [decimalDigits_length]; omega), hindex, hstack, hmode⟩
  | saved hfits =>
    refine ⟨Memory.writeBytes_wf hmem (by rw [State.regsUpTo_length]; omega), ?_, hstack, hmode⟩
    rw [State.setIndex_toNat _ (by omega)]; omega
  | loaded hfits => exact ⟨hmem, by rw [State.setIndex_toNat _ (by omega)]; omega, hstack, hmode⟩
  | parked => exact ⟨hmem, hindex, hstack, nofun⟩

end EffectFrame

/-! ## What a step and a host operation can do -/

/-- A fetch reads `PC` and memory only (spec/30_encoding.md R90). -/
theorem State.fetchWord_congr {s t : State} (hpc : t.pc = s.pc) (hmem : t.mem = s.mem) :
    t.fetchWord = s.fetchWord := by
  simp [State.fetchWord, State.memRead, hpc, hmem]

/-- Committing the `PC` a state has keeps it. -/
theorem State.commitPc_pc_self (s : State) {n : Nat} (hn : n = s.pc.toNat) : (s.commitPc n).pc = s.pc := by
  apply BitVec.eq_of_toNat_eq
  rw [s.commitPc_toNat, hn]
  exact Nat.mod_eq_of_lt s.pc.isLt

/-- The step of a parked machine (spec/44_timers_keys.md R165). -/
theorem State.serviceKeyWait_cases (s : State) :
    (s.key = none ∧ s.serviceKeyWait = s) ∨
    (∃ k, s.key = some k
      ∧ s.serviceKeyWait = ((s.writeReg s.waitReg (k.setWidth 8)).setMode .running).commitPc s.seqPc) := by
  unfold State.serviceKeyWait
  cases s.key with
  | none => exact .inl ⟨rfl, rfl⟩
  | some k => exact .inr ⟨k, rfl, rfl⟩

/-! The step and the two stack instructions, forwards: one equation for each case. -/

section StepEquations
variable {s : State}

/-- A recorded fault stops the step (spec/30_encoding.md R96). -/
theorem step_of_fault {r : FaultRecord} (hf : s.fault = some r) : step s = .next s := by
  simp [step, State.cycle, hf]

/-- A step outside RUNNING and the key wait (R95, R97). -/
theorem step_of_no_mode (hf : s.fault = none) (hm : s.mode = .init ∨ s.mode = .unused) :
    step s = .next (s.raise .unimplementedState none) := by
  rcases hm with hm | hm <;> simp [step, State.cycle, hf, hm]

/-- A step of a parked machine (spec/44_timers_keys.md R165). -/
theorem step_of_waitForKey (hf : s.fault = none) (hm : s.mode = .waitForKey) : step s = .next s.serviceKeyWait := by
  simp [step, State.cycle, hf, hm]

/-- A step whose fetch faults (R90). -/
theorem step_of_fetch_error {k : FaultKind} (hf : s.fault = none) (hm : s.mode = .running)
    (hw : s.fetchWord = .error k) : step s = .next (s.raise k none) := by
  simp [step, State.cycle, State.runInstruction, hf, hm, hw]

/-- A step at an illegal word (R91). -/
theorem step_of_illegal {w : Word} {r : DecodeReject} (hf : s.fault = none) (hm : s.mode = .running)
    (hw : s.fetchWord = .ok w) (hd : decode w = .error r) : step s = .next (s.raise .illegalInstruction (some w)) := by
  simp [step, State.cycle, State.runInstruction, hf, hm, hw, hd]

/-- A step at an instruction (R93). -/
theorem step_of_decode {w : Word} {i : Instr} (hf : s.fault = none) (hm : s.mode = .running)
    (hw : s.fetchWord = .ok w) (hd : decode w = .ok i) : step s = exec i s := by
  simp [step, State.cycle, State.runInstruction, hf, hm, hw, hd]

end StepEquations

/-- A call with room on the stack and its return address in memory (spec/40_control.md R105). -/
theorem execCall_of_room {s : State} (nnn : Addr) (hpc : s.pc.toNat + 2 < 4096) (hroom : s.stack.length < 4096) :
    execCall nnn s = .next ((s.setStack (s.stack ++ [BitVec.ofNat 12 (s.pc.toNat + 2)])).commitPc nnn.toNat) := by
  rcases execCall_cases s nnn with ⟨hbad, _⟩ | ⟨_, hfull, _⟩ | ⟨_, _, e⟩
  · omega
  · omega
  · exact e

/-- A call whose return address is past memory (R105). -/
theorem execCall_of_end {s : State} (nnn : Addr) (hpc : 4096 ≤ s.pc.toNat + 2) :
    execCall nnn s = .next (s.raise .memoryAccess (some (encode (.call nnn)))) := by
  rcases execCall_cases s nnn with ⟨_, e⟩ | ⟨hgood, _⟩ | ⟨hgood, _⟩
  · exact e
  · omega
  · omega

/-- A call with a full stack (R105). -/
theorem execCall_of_full {s : State} (nnn : Addr) (hpc : s.pc.toNat + 2 < 4096) (hfull : 4096 ≤ s.stack.length) :
    execCall nnn s = .next (s.raise .undefinedBehaviour (some (encode (.call nnn)))) := by
  rcases execCall_cases s nnn with ⟨hbad, _⟩ | ⟨_, _, e⟩ | ⟨_, hroom, _⟩
  · omega
  · exact e
  · omega

/-- A return with an empty stack (spec/40_control.md R103). -/
theorem execRet_of_nil {s : State} (h : s.stack = []) :
    execRet s = .next (s.raise .stackUnderflow (some (encode .ret))) := by
  simp [execRet, State.pop, h]

/-- A return with an address on the stack (spec/40_control.md R103). -/
theorem execRet_of_append {s : State} {rest : List Addr} {a : Addr} (h : s.stack = rest ++ [a]) :
    execRet s = .next ((s.setStack rest).commitPc a.toNat) := by
  simp [execRet, State.pop, h]

/-- Everything a step can do: nothing, with a fault recorded; a raise, whose word is the fetched one; the key-wait
service; or the instruction at `PC`, completed. -/
theorem step_next_cases {s t : State} (h : step s = .next t) :
    (s.fault ≠ none ∧ t = s) ∨
    (s.fault = none ∧ ∃ k w, k ≠ .registerAccess ∧ (∀ w', w = some w' → s.fetchWord = .ok w') ∧ t = s.raise k w) ∨
    (s.fault = none ∧ s.mode = .waitForKey ∧ t = s.serviceKeyWait) ∨
    (s.fault = none ∧ s.mode = .running
      ∧ ∃ i u n, s.fetchWord = .ok (encode i) ∧ Effect s i u n ∧ t = u.commitPc n) := by
  rcases step_cases s with
    ⟨⟨r, hr⟩, e⟩ | ⟨hf, _, e⟩ | ⟨hf, hm, e⟩ | ⟨hf, _, _, e⟩ | ⟨hf, hm, w, hw, ⟨_, e⟩ | ⟨i, hd, e⟩⟩ <;>
    rw [e] at h
  · cases h; exact .inl ⟨by simp [hr], rfl⟩
  · cases h; exact .inr (.inl ⟨hf, .unimplementedState, none, nofun, nofun, rfl⟩)
  · cases h; exact .inr (.inr (.inl ⟨hf, hm, rfl⟩))
  · cases h; exact .inr (.inl ⟨hf, .memoryAccess, none, nofun, nofun, rfl⟩)
  · cases h; exact .inr (.inl ⟨hf, .illegalInstruction, some w, nofun, fun _ e' => Option.some.inj e' ▸ hw, rfl⟩)
  · have hi : s.fetchWord = .ok (encode i) := by rw [hw, encode_of_decode hd]
    rcases exec_next_cases h with ⟨k, hk, ht⟩ | ⟨u, n, he, ht⟩
    · exact .inr (.inl ⟨hf, _, _, raisesWhen_ne_registerAccess hk, fun _ e' => Option.some.inj e' ▸ hi, ht⟩)
    · exact .inr (.inr (.inr ⟨hf, hm, i, u, n, hi, he, ht⟩))

/-- Everything a host operation but a `state_mut()` write can do (spec/60_exceptions.md R185): step; reset; load, or
raise on too long a program; or change no more than the timers and the key. -/
theorem hostOp_next_cases {op : HostOp} {s t : State} (hop : op.notStateMut) (h : op.apply s = .next t) :
    (op = .step ∧ step s = .next t) ∨
    (op = .reset ∧ t = s.resetOp) ∨
    (∃ bytes, op = .loadProgram bytes ∧ bytes.length ≤ 3584
      ∧ t = { s.resetOp with mem := Memory.writeBytes [] 0x200 bytes, pc := 0x200#12 }) ∨
    (∃ bytes, op = .loadProgram bytes ∧ 3584 < bytes.length ∧ t = s.raise .memoryAccess none) ∨
    (op ≠ .step ∧ ∃ dt st key, t = { s with dt := dt, st := st, key := key }) := by
  cases op with
  | step => exact .inl ⟨rfl, h⟩
  | reset => cases h; exact .inr (.inl ⟨rfl, rfl⟩)
  | loadProgram bytes =>
    rcases s.loadProgram_cases bytes with ⟨hlong, e⟩ | ⟨hfits, e⟩ <;> simp only [HostOp.apply, e] at h <;> cases h
    · exact .inr (.inr (.inr (.inl ⟨bytes, rfl, hlong, rfl⟩)))
    · exact .inr (.inr (.inl ⟨bytes, rfl, hfits, rfl⟩))
  | stateMut => exact hop.elim
  | tickTimers | keyDown | keyUp | state | snapshot | present =>
    cases h; exact .inr (.inr (.inr (.inr ⟨nofun, _, _, _, rfl⟩)))

/-! ## The invariants of spec/10_state.md R38 and R39 -/

/-- Settles O15: memory, stack and fault slot are empty at reset and at power-on, and neither is parked. -/
theorem resetMeetsTheInvariants : Obligations.ResetMeetsTheInvariants :=
  ⟨⟨⟨rfl, by decide, by decide, nofun⟩, nofun, nofun⟩, ⟨rfl, by decide, by decide, nofun⟩, nofun, nofun⟩

/-- Settles O16, by what a step can do: a raise and the key-wait service leave memory, `I` and stack alone, and each
effect of an instruction keeps the invariant. -/
theorem stepKeepsTheStateInvariant : Obligations.StepKeepsTheStateInvariant := by
  intro s t hs h
  rcases step_next_cases h with ⟨_, rfl⟩ | ⟨_, k, w, _, _, rfl⟩ | ⟨_, _, rfl⟩ | ⟨_, _, i, u, n, _, he, rfl⟩
  · exact hs
  · exact hs
  · rcases s.serviceKeyWait_cases with ⟨_, e⟩ | ⟨k, _, e⟩ <;> rw [e]
    · exact hs
    · obtain ⟨hmem, hindex, hstack, _⟩ := hs
      exact ⟨hmem, hindex, hstack, nofun⟩
  · exact he.inv hs

/-- Settles O17: only a load writes memory, and it stays inside. -/
theorem hostOperationsKeepTheStateInvariant : Obligations.HostOperationsKeepTheStateInvariant := by
  intro op s t hop hstep hs h
  rcases hostOp_next_cases hop h with
    ⟨e, _⟩ | ⟨_, rfl⟩ | ⟨bytes, _, hfits, rfl⟩ | ⟨_, _, _, rfl⟩ | ⟨_, _, _, _, rfl⟩
  · exact absurd e hstep
  · exact ⟨rfl, Nat.zero_le _, Nat.zero_le _, nofun⟩
  · exact ⟨Memory.writeBytes_wf rfl (by omega), Nat.zero_le _, Nat.zero_le _, nofun⟩
  · exact hs
  · exact hs

/-- A step keeps a parked machine at its `FX0A`: only `FX0A` parks, and it moves neither `PC` nor memory. -/
theorem State.parkedAtKeyWait_step {s t : State} (hs : s.parkedAtKeyWait) (h : step s = .next t) :
    t.parkedAtKeyWait := by
  rcases step_next_cases h with ⟨_, rfl⟩ | ⟨_, k, w, _, _, rfl⟩ | ⟨_, _, rfl⟩ | ⟨_, hrun, i, u, n, hi, he, rfl⟩
  · exact hs
  · exact hs
  · rcases s.serviceKeyWait_cases with ⟨_, e⟩ | ⟨k, _, e⟩ <;> rw [e]
    · exact hs
    · exact nofun
  · intro hwait
    rcases he.mode_cases with hmode | ⟨x, rfl, rfl, hn⟩
    · rw [State.commitPc_mode, hmode, hrun] at hwait
      cases hwait
    · exact (State.fetchWord_congr (State.commitPc_pc_self _ hn) rfl).trans hi

/-- Settles O18: a reset or a load leaves RUNNING, and every other operation but a step leaves mode, `PC`, memory and
`WAIT_REG` alone. -/
theorem parkedMachineStandsAtItsKeyWait : Obligations.ParkedMachineStandsAtItsKeyWait := by
  intro op s t hop hs h
  rcases hostOp_next_cases hop h with
    ⟨_, h⟩ | ⟨_, rfl⟩ | ⟨_, _, _, rfl⟩ | ⟨_, _, _, rfl⟩ | ⟨_, _, _, _, rfl⟩
  · exact State.parkedAtKeyWait_step hs h
  · exact nofun
  · exact nofun
  · exact hs
  · exact hs

/-- No fault, no record to fit. -/
theorem State.faultRecordFits_of_none {s : State} (h : s.fault = none) : s.faultRecordFits := by
  intro r hr
  rw [h] at hr
  cases hr

/-- The record of a raise fits when its word, if any, is the one at `PC`. -/
theorem State.faultRecordFits_raise {s : State} (k : FaultKind) {w : Option Word}
    (hw : ∀ w', w = some w' → s.fetchWord = .ok w') : (s.raise k w).faultRecordFits := by
  intro r hr
  cases hr
  exact ⟨rfl, fun w' hw' => (State.fetchWord_congr rfl rfl).trans (hw w' hw')⟩

/-- The key-wait service cannot fault (spec/44_timers_keys.md R165). -/
theorem State.serviceKeyWait_fault (s : State) : s.serviceKeyWait.fault = s.fault := by
  unfold State.serviceKeyWait
  cases s.key <;> rfl

/-- The fault after a step from an unfaulted state comes from a raise, if there is one. -/
theorem step_fault_cases {s t : State} (hf : s.fault = none) (h : step s = .next t) :
    t.fault = none ∨
    ∃ k w, k ≠ .registerAccess ∧ (∀ w', w = some w' → s.fetchWord = .ok w') ∧ t = s.raise k w := by
  rcases step_next_cases h with ⟨hne, _⟩ | ⟨_, hraise⟩ | ⟨_, _, rfl⟩ | ⟨_, _, i, u, n, _, he, rfl⟩
  · exact absurd hf hne
  · exact .inr hraise
  · exact .inl (s.serviceKeyWait_fault.trans hf)
  · exact .inl (he.fault_eq.trans hf)

/-- A step keeps the record fitting: a faulted machine stays as it is, and a raise records the fetched word. -/
theorem State.faultRecordFits_step {s t : State} (hs : s.faultRecordFits) (h : step s = .next t) :
    t.faultRecordFits := by
  by_cases hf : s.fault = none
  · rcases step_fault_cases hf h with ht | ⟨k, w, _, hw, rfl⟩
    · exact State.faultRecordFits_of_none ht
    · exact State.faultRecordFits_raise k hw
  · rcases step_next_cases h with ⟨_, rfl⟩ | ⟨hf', _⟩ | ⟨hf', _⟩ | ⟨hf', _⟩
    · exact hs
    all_goals exact absurd hf' hf

/-- Settles O19: a reset or a load clears the record, a load too long replaces it, and every other operation but a step
leaves record, `PC` and memory alone. -/
theorem faultRecordNamesTheInstructionAtPc : Obligations.FaultRecordNamesTheInstructionAtPc := by
  intro op s t hop hs h
  rcases hostOp_next_cases hop h with
    ⟨_, h⟩ | ⟨_, rfl⟩ | ⟨_, _, _, rfl⟩ | ⟨_, _, _, rfl⟩ | ⟨_, _, _, _, rfl⟩
  · exact State.faultRecordFits_step hs h
  · exact State.faultRecordFits_of_none rfl
  · exact State.faultRecordFits_of_none rfl
  · exact State.faultRecordFits_raise _ nofun
  · exact hs

/-! ## Registers, the stack and the mode -/

/-- Settles O24: the call pushed `PC + 2` on its stack, and the return pops it. -/
theorem callThenReturnResumesAfterTheCall : Obligations.CallThenReturnResumesAfterTheCall := by
  intro nnn s t u hpc hroom hcall hu
  cases (execCall_of_room nnn hpc hroom).symm.trans hcall
  refine ⟨_, execRet_of_append hu, ?_, rfl⟩
  rw [State.commitPc_toNat, BitVec.toNat_ofNat]
  omega

/-- A register write changes no element but the registers. -/
theorem State.keepsAllBut_writeReg (s : State) (x : Reg) (b : Byte) : s.keepsAllBut [.regs] (s.writeReg x b) := by
  intro e he
  cases e with
  | regs => simp at he
  | mem => exact fun _ => rfl
  | _ => rfl

/-- A raise writes the record and nothing else (spec/60_exceptions.md R171). -/
theorem State.onlyFaulted_raise (s : State) (k : FaultKind) (w : Option Word) : s.onlyFaulted k w (s.raise k w) := by
  refine ⟨rfl, fun e he => ?_⟩
  cases e with
  | fault => simp at he
  | mem | regs => exact fun _ => rfl
  | _ => rfl

/-- A host write of a register that there is. -/
theorem State.stateMut_reg (s : State) (r : Reg) (v : Nat) :
    s.stateMut (.reg r.toNat v) = (s.writeReg r (BitVec.ofNat 8 v), none) := by
  rcases s.stateMut_reg_cases r.toNat v with ⟨hbad, _⟩ | ⟨_, e⟩
  · exact absurd r.isLt (by omega)
  · simpa using e

/-- Settles O53: the host's write is a register write or a raise, and no raise of a step is of that kind. -/
theorem registerAccessComesFromTheHostOnly : Obligations.RegisterAccessComesFromTheHostOnly := by
  refine ⟨fun s r v => ?_, fun s r v hr => ?_, fun s t r hf h hr => ?_⟩
  · rw [s.stateMut_reg]
    exact ⟨rfl, by simp, fun q hq => s.readReg_writeReg_ne hq _, s.keepsAllBut_writeReg r _⟩
  · rcases s.stateMut_reg_cases r v with ⟨_, e⟩ | ⟨hgood, _⟩
    · rw [e]; exact ⟨rfl, s.onlyFaulted_raise _ _⟩
    · omega
  · rcases step_fault_cases hf h with ht | ⟨k, w, hk, _, rfl⟩
    · rw [ht] at hr; cases hr
    · cases hr; exact hk

/-- Settles O55: a raise writes no register, and an effect only those its instruction may write. -/
theorem onlyDestinationsAndFlagsChange : Obligations.OnlyDestinationsAndFlagsChange := by
  intro i s t r h hr
  rcases exec_next_cases h with ⟨k, _, rfl⟩ | ⟨u, n, he, rfl⟩
  · rfl
  · exact he.readReg_eq hr

/-- A step that changes the mode is an `FX0A` that parks or a service with a key held. -/
theorem step_mode_cases {s t : State} (h : step s = .next t) (hmode : t.mode ≠ s.mode) :
    (s.mode = .running ∧ t.mode = .waitForKey ∧ s.fetchWord = .ok (encode (.ldVxK t.waitReg))) ∨
    (s.mode = .waitForKey ∧ t.mode = .running ∧ s.key ≠ none) := by
  rcases step_next_cases h with ⟨_, rfl⟩ | ⟨_, k, w, _, _, rfl⟩ | ⟨_, hwait, rfl⟩ | ⟨_, hrun, i, u, n, hi, he, rfl⟩
  · exact absurd rfl hmode
  · exact absurd rfl hmode
  · rcases s.serviceKeyWait_cases with ⟨_, e⟩ | ⟨k, hk, e⟩ <;> rw [e] at hmode ⊢
    · exact absurd rfl hmode
    · exact .inr ⟨hwait, rfl, by simp [hk]⟩
  · rcases he.mode_cases with e | ⟨x, rfl, rfl, _⟩
    · exact absurd e hmode
    · exact .inl ⟨hrun, rfl, hi⟩

/-- Settles O57: besides a step only a reset and a load write the mode, and they write RUNNING. -/
theorem modeChangesOnlyByItsTransitions : Obligations.ModeChangesOnlyByItsTransitions := by
  intro op s t hop h hmode
  rcases hostOp_next_cases hop h with
    ⟨rfl, h⟩ | ⟨e, rfl⟩ | ⟨bytes, e, _, rfl⟩ | ⟨_, _, _, rfl⟩ | ⟨_, _, _, _, rfl⟩
  · exact .inr ((step_mode_cases h hmode).imp (⟨rfl, ·⟩) (⟨rfl, ·⟩))
  · exact .inl ⟨rfl, .inl e⟩
  · exact .inl ⟨rfl, .inr ⟨bytes, e⟩⟩
  · exact absurd rfl hmode
  · exact absurd rfl hmode

/-! ## Noninterference: `KEY` and `ST` (spec/10_state.md R31, R36) -/

/-- `KEY <- k` and `ST <- v`: the two elements that no instruction but the key skips and `FX18` looks at or writes. -/
def State.withKeyAndSound (s : State) (k : Option Nibble) (v : Byte) : State := { s with key := k, st := v }

/-- At `s`, `f` has the same next state whatever `KEY` and `ST` are, and keeps them. -/
def IgnoresKeyAndSound (f : State → Host.Outcome State Fault Refusal) (s : State) : Prop :=
  ∃ t, f s = .next t ∧ ∀ k v, f (s.withKeyAndSound k v) = .next (t.withKeyAndSound k v)

section IgnoresKeyAndSound
variable {f : State → Host.Outcome State Fault Refusal} {s : State}

/-- Two exclusive cases: `f` ignores the two elements when the conditions do not speak of them and the results keep
them. -/
theorem IgnoresKeyAndSound.of_cases {A B : State → Prop} {a b : State → State}
    (hf : ∀ s, (A s ∧ f s = .next (a s)) ∨ (B s ∧ f s = .next (b s))) (hAB : ∀ s, A s → ¬ B s)
    (hA : ∀ k v, A (s.withKeyAndSound k v) = A s := by exact fun _ _ => rfl)
    (hB : ∀ k v, B (s.withKeyAndSound k v) = B s := by exact fun _ _ => rfl)
    (ha : ∀ k v, a (s.withKeyAndSound k v) = (a s).withKeyAndSound k v := by exact fun _ _ => rfl)
    (hb : ∀ k v, b (s.withKeyAndSound k v) = (b s).withKeyAndSound k v := by exact fun _ _ => rfl) :
    IgnoresKeyAndSound f s := by
  rcases hf s with ⟨h, e⟩ | ⟨h, e⟩
  · refine ⟨_, e, fun k v => ?_⟩
    rw [← ha]
    exact ((hf _).resolve_right fun h' => hAB s h (hB k v ▸ h'.1)).2
  · refine ⟨_, e, fun k v => ?_⟩
    rw [← hb]
    exact ((hf _).resolve_left fun h' => hAB s (hA k v ▸ h'.1) h).2

/-- `f` at `s` with `KEY` replaced is `f` at `s` with `KEY` replaced after it. -/
theorem IgnoresKeyAndSound.setKey (h : IgnoresKeyAndSound f s) (k : Option Nibble) :
    ∃ t, f s = .next t ∧ f { s with key := k } = .next { t with key := k } := by
  obtain ⟨t, e, hsame⟩ := h
  have hself : t = t.withKeyAndSound s.key s.st := Host.Outcome.next.inj (e.symm.trans (hsame s.key s.st))
  have hst : t.st = s.st := by rw [hself]; rfl
  exact ⟨t, e, by simpa [State.withKeyAndSound, ← hst] using hsame k s.st⟩

end IgnoresKeyAndSound

/-- Register writes do not touch the two elements. -/
theorem State.writeRegs_withKeyAndSound (s : State) (n : Nat) (bs : List Byte) (k : Option Nibble) (v : Byte) :
    (s.withKeyAndSound k v).writeRegs n bs = (s.writeRegs n bs).withKeyAndSound k v := by
  induction bs generalizing s n with
  | nil => rfl
  | cons b bs ih => exact ih (s.writeReg (BitVec.ofNat 4 n) b) (n + 1)

/-- The stack decides what `00EE` does. -/
theorem execRet_ignoresKeyAndSound (s : State) : IgnoresKeyAndSound execRet s := by
  rcases execRet_cases s with ⟨h, e⟩ | ⟨rest, a, h, e⟩
  · exact ⟨_, e, fun k v => execRet_of_nil (s := s.withKeyAndSound k v) h⟩
  · exact ⟨_, e, fun k v => execRet_of_append (s := s.withKeyAndSound k v) h⟩

/-- `PC` and the stack decide what `2NNN` does. -/
theorem execCall_ignoresKeyAndSound (nnn : Addr) (s : State) : IgnoresKeyAndSound (execCall nnn) s := by
  rcases execCall_cases s nnn with ⟨h, e⟩ | ⟨h, hfull, e⟩ | ⟨h, hroom, e⟩
  · exact ⟨_, e, fun k v => execCall_of_end (s := s.withKeyAndSound k v) nnn h⟩
  · exact ⟨_, e, fun k v => execCall_of_full (s := s.withKeyAndSound k v) nnn h hfull⟩
  · exact ⟨_, e, fun k v => execCall_of_room (s := s.withKeyAndSound k v) nnn h hroom⟩

/-- `I` decides whether `DXYN` raises; what it draws comes from the registers, memory and `FB`. -/
theorem execDrw_ignoresKeyAndSound (x y : Reg) (n : Nibble) (s : State) : IgnoresKeyAndSound (execDrw x y n) s := by
  rcases execDrw_cases s x y n with ⟨h, e⟩ | ⟨h, d, rfl, e⟩ <;> refine ⟨_, e, fun k v => ?_⟩ <;>
    rcases execDrw_cases (s.withKeyAndSound k v) x y n with ⟨h', e'⟩ | ⟨h', d', rfl, e'⟩
  · exact e'
  · exact absurd h (Nat.not_le.mpr h')
  · exact absurd h' (Nat.not_le.mpr h)
  · exact e'

/-- An instruction but a key skip and `FX18` does the same whatever `KEY` and `ST` are. -/
theorem exec_ignoresKeyAndSound {i : Instr} (hkey : ∀ x, i ≠ .skp x ∧ i ≠ .sknp x) (hsound : ∀ x, i ≠ .ldStVx x)
    (s : State) : IgnoresKeyAndSound (exec i) s := by
  cases i with
  | skp x => exact absurd rfl (hkey x).1
  | sknp x => exact absurd rfl (hkey x).2
  | ldStVx x => exact absurd rfl (hsound x)
  | ret => exact execRet_ignoresKeyAndSound s
  | call nnn => exact execCall_ignoresKeyAndSound nnn s
  | drw x y n => exact execDrw_ignoresKeyAndSound x y n s
  | addI x => exact .of_cases (execAddI_cases · x) (fun _ h => Nat.not_le.mpr h)
  | ldF x => exact .of_cases (execLdF_cases · x) (fun _ h => Nat.not_le.mpr h)
  | ldB x => exact .of_cases (execLdB_cases · x) (fun _ h => Nat.not_lt.mpr h)
  | ldMemVx x => exact .of_cases (execLdMemVx_cases · x) (fun _ h => Nat.not_lt.mpr h)
  | ldVxMem x =>
    refine .of_cases (execLdVxMem_cases · x) (fun _ h => Nat.not_lt.mpr h) (hb := fun k v => ?_)
    exact congrArg (fun t => (t.setIndex (s.i.toNat + x.toNat + 1)).commitPc s.seqPc)
      (s.writeRegs_withKeyAndSound 0 _ k v)
  | _ => exact ⟨_, rfl, fun _ _ => rfl⟩

/-- No instruction writes `KEY`. -/
theorem exec_key_eq {i : Instr} {s t : State} (h : exec i s = .next t) : t.key = s.key := by
  rcases exec_next_cases h with ⟨_, _, rfl⟩ | ⟨_, _, he, rfl⟩
  · rfl
  · exact he.key_eq

/-- Settles O60: `FX18` does not read `KEY`, and every other instruction but the key skips ignores it. -/
theorem keyIsReadOnlyByTheKeySkips : Obligations.KeyIsReadOnlyByTheKeySkips := by
  refine ⟨fun i s t => exec_key_eq, fun i s k hi => ?_⟩
  by_cases hsound : ∃ x, i = .ldStVx x
  · obtain ⟨x, rfl⟩ := hsound
    exact ⟨_, rfl, rfl⟩
  · exact (exec_ignoresKeyAndSound hi (not_exists.mp hsound) s).setKey k

/-- An instruction run with another `ST` leaves the same next state but for `ST`. -/
theorem exec_setSoundTimer {i : Instr} {s t : State} (h : exec i s = .next t) (v : Byte) :
    ∃ w, exec i (s.setSoundTimer v) = .next (t.setSoundTimer w) := by
  by_cases hskip : ∃ x, i = .skp x ∨ i = .sknp x ∨ i = .ldStVx x
  · obtain ⟨x, rfl | rfl | rfl⟩ := hskip
    · cases h; exact ⟨v, rfl⟩
    · cases h; exact ⟨v, rfl⟩
    · cases h; exact ⟨s.readReg x, rfl⟩
  · simp only [not_exists, not_or] at hskip
    obtain ⟨t', e, hsame⟩ := exec_ignoresKeyAndSound (fun x => ⟨(hskip x).1, (hskip x).2.1⟩) (fun x => (hskip x).2.2) s
    cases h.symm.trans e
    refine ⟨v, (hsame s.key v).trans ?_⟩
    rw [← exec_key_eq h]
    rfl

/-- The key-wait service does not look at `ST`. -/
theorem State.serviceKeyWait_setSoundTimer (s : State) (v : Byte) :
    (s.setSoundTimer v).serviceKeyWait = s.serviceKeyWait.setSoundTimer v := by
  unfold State.serviceKeyWait
  rw [State.setSoundTimer_key]
  cases s.key <;> rfl

/-- A step with another `ST` takes the same branch: fault, mode and fetch do not read it. -/
theorem step_setSoundTimer {s t : State} (h : step s = .next t) (v : Byte) :
    ∃ w, step (s.setSoundTimer v) = .next (t.setSoundTimer w) := by
  have hfetch : (s.setSoundTimer v).fetchWord = s.fetchWord := State.fetchWord_congr rfl rfl
  rcases step_cases s with
    ⟨⟨r, hf⟩, e⟩ | ⟨hf, hm, e⟩ | ⟨hf, hm, e⟩ | ⟨hf, hm, hw, e⟩ | ⟨hf, hm, w, hw, ⟨⟨r, hd⟩, e⟩ | ⟨i, hd, e⟩⟩ <;>
    rw [e] at h
  · cases h; exact ⟨v, step_of_fault (s := s.setSoundTimer v) hf⟩
  · cases h; exact ⟨v, step_of_no_mode (s := s.setSoundTimer v) hf hm⟩
  · cases h
    refine ⟨v, (step_of_waitForKey (s := s.setSoundTimer v) hf hm).trans ?_⟩
    rw [s.serviceKeyWait_setSoundTimer]
  · cases h; exact ⟨v, step_of_fetch_error (s := s.setSoundTimer v) hf hm (hfetch.trans hw)⟩
  · cases h; exact ⟨v, step_of_illegal (s := s.setSoundTimer v) hf hm (hfetch.trans hw) hd⟩
  · rw [step_of_decode (s := s.setSoundTimer v) hf hm (hfetch.trans hw) hd]
    exact exec_setSoundTimer h v

/-- Settles O59: the two next states are one state with two values of `ST`. -/
theorem soundTimerIsNeverRead : Obligations.SoundTimerIsNeverRead := by
  intro s t v h
  obtain ⟨w, e⟩ := step_setSoundTimer h v
  exact ⟨_, e, rfl⟩

end Sys2Proof.Machine

/-! # The memory family: where a store may land (spec/20_memory.md R51) -/

namespace Sys2Proof.Machine

/-- A run of writes leaves every byte outside its range alone. -/
theorem Memory.read_writeBytes_of_outside {m : Memory} {a b : Nat} {bs : List Byte} (hm : m.wf = true)
    (hfits : a + bs.length ≤ 4096) (hb : ¬ (a ≤ b ∧ b < a + bs.length)) :
    Memory.read (Memory.writeBytes m a bs) b = Memory.read m b := by
  rw [Memory.read_writeBytes hm hfits, if_neg hb]

/-- Only the bytes the instruction may store to change: three from `I` by `FX33`, `X + 1` by `FX55`
(spec/42_index_memory.md R143, R144), none by any other. -/
theorem Effect.read_mem_eq {s u : State} {i : Instr} {n a : Nat} (he : Effect s i u n) (hm : s.mem.wf = true)
    (ha : ¬ mayStoreTo s i a) : Memory.read u.mem a = Memory.read s.mem a := by
  cases he with
  | digits hfits =>
    simp only [mayStoreTo] at ha
    exact Memory.read_writeBytes_of_outside hm (by rw [decimalDigits_length]; omega)
      (by rw [decimalDigits_length]; omega)
  | saved hfits =>
    simp only [mayStoreTo] at ha
    exact Memory.read_writeBytes_of_outside hm (by rw [State.regsUpTo_length]; omega)
      (by rw [State.regsUpTo_length]; omega)
  | onlyPc | register | flagThenRegister | drawn | cleared | sprite | index | pushed | popped | loaded | parked
  | delayTimer | soundTimer => rfl

/-- Settles O56: a raise stores nothing, and an effect only where its instruction may. -/
theorem storesStayInTheirRange : Obligations.StoresStayInTheirRange := by
  intro i s t a hm h ha
  rcases exec_next_cases h with ⟨k, _, rfl⟩ | ⟨u, n, he, rfl⟩
  · rfl
  · exact he.read_mem_eq hm ha

end Sys2Proof.Machine

/-! # The encoding family: the decoder against the encoder and the table of illegal words, and the step around an
instruction -/

namespace Sys2Proof

/-! ## The fields of a laid-out word (spec/30_encoding.md R71, R72) -/

section FieldsOfFormats
variable (t n : Nibble) (x y : Reg) (nn : Byte) (nnn : Addr)

@[simp] theorem fieldT_wordTNNN : fieldT (wordTNNN t nnn) = t := by
  apply BitVec.eq_of_toNat_eq
  rw [fieldT_toNat, wordTNNN_toNat]
  omega

@[simp] theorem fieldNNN_wordTNNN : fieldNNN (wordTNNN t nnn) = nnn := by
  apply BitVec.eq_of_toNat_eq
  rw [fieldNNN_toNat, wordTNNN_toNat]
  omega

@[simp] theorem fieldT_wordTXNN : fieldT (wordTXNN t x nn) = t := by
  apply BitVec.eq_of_toNat_eq
  rw [fieldT_toNat, wordTXNN_toNat]
  omega

@[simp] theorem fieldX_wordTXNN : fieldX (wordTXNN t x nn) = x := by
  apply BitVec.eq_of_toNat_eq
  rw [fieldX_toNat, wordTXNN_toNat]
  omega

@[simp] theorem fieldNN_wordTXNN : fieldNN (wordTXNN t x nn) = nn := by
  apply BitVec.eq_of_toNat_eq
  rw [fieldNN_toNat, wordTXNN_toNat]
  omega

@[simp] theorem fieldT_wordTXYN : fieldT (wordTXYN t x y n) = t := by
  apply BitVec.eq_of_toNat_eq
  rw [fieldT_toNat, wordTXYN_toNat]
  omega

@[simp] theorem fieldX_wordTXYN : fieldX (wordTXYN t x y n) = x := by
  apply BitVec.eq_of_toNat_eq
  rw [fieldX_toNat, wordTXYN_toNat]
  omega

@[simp] theorem fieldY_wordTXYN : fieldY (wordTXYN t x y n) = y := by
  apply BitVec.eq_of_toNat_eq
  rw [fieldY_toNat, wordTXYN_toNat]
  omega

@[simp] theorem fieldN_wordTXYN : fieldN (wordTXYN t x y n) = n := by
  apply BitVec.eq_of_toNat_eq
  rw [fieldN_toNat, wordTXYN_toNat]
  omega

end FieldsOfFormats

/-! ## The round trips (R72, R75) -/

/-- Settles O1, an instruction at a time: the fields laid out by its format read back as they were, and `T`, then `N` or
`NN` where `T` has more than one instruction, select its row. -/
theorem decodeInvertsEncode : Obligations.DecodeInvertsEncode := by
  intro i
  cases i with
  | nop | cls | ret => rfl
  | jp _ | call _ | ldI _ | jpV0 _ | seImm _ _ | sneImm _ _ | ldImm _ _ | addImm _ _ | rnd _ _ | seReg _ _
  | sneReg _ _ | drw _ _ _ => simp [encode, decode]
  | ldReg _ _ | orReg _ _ | andReg _ _ | xorReg _ _ | addReg _ _ | sub _ _ | shr _ _ | subn _ _ | shl _ _ =>
    simp [encode, decode, decodeAlu]
  | skp _ | sknp _ => simp [encode, decode, decodeKey]
  | ldVxDt _ | ldVxK _ | ldDtVx _ | ldStVx _ | addI _ | ldF _ | ldB _ | ldMemVx _ | ldVxMem _ =>
    simp [encode, decode, decodeMisc]

/-- Settles O2: decoding drops no bit. -/
theorem encodeInvertsDecode : Obligations.EncodeInvertsDecode := fun _ _ => encode_of_decode

/-- Settles O4, by decoding the ten words. -/
theorem writtenWordsDecode : Obligations.WrittenWordsDecode := by
  unfold Obligations.WrittenWordsDecode
  decide

/-! ## The illegal words (R75, R76): what each part of the decoder rejects is what its rows cover -/

section Reject
variable {w : Word} {e : DecodeReject}

theorem decodeFixed_eq_error_iff :
    decodeFixed w = .error e ↔ .illegal .p0NNN = e ∧ w ≠ 0x0000#16 ∧ w ≠ 0x00E0#16 ∧ w ≠ 0x00EE#16 := by
  unfold decodeFixed
  split_ifs <;> simp [*]

theorem decodeAlu_eq_error_iff :
    decodeAlu w = .error e ↔
      .illegal .p8XYN = e ∧ (fieldN w).toNat ∈ [8, 9, 0xA, 0xB, 0xC, 0xD, 0xF] := by
  unfold decodeAlu
  split
  case h_10 =>
    have hlt := (fieldN w).isLt
    have hN : (fieldN w).toNat ∈ [8, 9, 0xA, 0xB, 0xC, 0xD, 0xF] := by
      simp only [imp_false, List.mem_cons, List.not_mem_nil, or_false] at *
      omega
    simp [hN]
  all_goals simp [*]

theorem decodeKey_eq_error_iff :
    decodeKey w = .error e ↔ .illegal .pEXNN = e ∧ (fieldNN w).toNat ∉ [0x9E, 0xA1] := by
  unfold decodeKey
  split <;> simp_all

theorem decodeMisc_eq_error_iff :
    decodeMisc w = .error e ↔
      .illegal .pFXNN = e ∧ (fieldNN w).toNat ∉ [0x07, 0x0A, 0x15, 0x18, 0x1E, 0x29, 0x33, 0x55, 0x65] := by
  unfold decodeMisc
  split <;> simp_all

/-- The condition of a row of R76 on the fields of the word, as the decoder reads them. -/
def IllegalPattern.coversFields (w : Word) : IllegalPattern → Prop
  | .p0NNN => (fieldT w).toNat = 0 ∧ w ≠ 0x0000#16 ∧ w ≠ 0x00E0#16 ∧ w ≠ 0x00EE#16
  | .p5XYN => (fieldT w).toNat = 5 ∧ fieldN w ≠ 0#4
  | .p8XYN => (fieldT w).toNat = 8 ∧ (fieldN w).toNat ∈ [8, 9, 0xA, 0xB, 0xC, 0xD, 0xF]
  | .p9XYN => (fieldT w).toNat = 9 ∧ fieldN w ≠ 0#4
  | .pEXNN => (fieldT w).toNat = 14 ∧ (fieldNN w).toNat ∉ [0x9E, 0xA1]
  | .pFXNN => (fieldT w).toNat = 15
      ∧ (fieldNN w).toNat ∉ [0x07, 0x0A, 0x15, 0x18, 0x1E, 0x29, 0x33, 0x55, 0x65]

/-- The condition on the word as a number (R76) is the condition on its fields. -/
theorem IllegalPattern.covers_iff (p : IllegalPattern) : p.covers w = true ↔ p.coversFields w := by
  have hN : fieldN w = 0#4 ↔ w.toNat % 16 = 0 := by simp [← BitVec.toNat_inj, fieldN_toNat]
  cases p with
  | p0NNN => simp [covers, coversFields, fieldT_toNat, ← BitVec.toNat_inj]; omega
  | p5XYN | p9XYN => simp [covers, coversFields, fieldT_toNat, hN]
  | p8XYN => simp [covers, coversFields, fieldT_toNat, fieldN_toNat]
  | pEXNN | pFXNN => simp [covers, coversFields, fieldT_toNat, fieldNN_toNat]

/-- The decoder rejects a word under a row exactly when the row covers it: under a `T` with no row every word decodes,
and under each other `T` the one row it has decides. -/
theorem decode_eq_illegal_iff (p : IllegalPattern) : decode w = .error (.illegal p) ↔ p.coversFields w := by
  unfold decode
  split
  case h_1 => cases p <;> simp [decodeFixed_eq_error_iff, IllegalPattern.coversFields, *]
  case h_9 => cases p <;> simp [decodeAlu_eq_error_iff, IllegalPattern.coversFields, *]
  case h_15 => cases p <;> simp [decodeKey_eq_error_iff, IllegalPattern.coversFields, *]
  case h_16 =>
    have hlt := (fieldT w).isLt
    have ht : (fieldT w).toNat = 15 := by simp only [imp_false] at *; omega
    cases p <;> simp [decodeMisc_eq_error_iff, IllegalPattern.coversFields, ht]
  all_goals cases p <;> simp [ite_eq_iff, IllegalPattern.coversFields, *]

/-- A whole word is never truncated. -/
theorem decode_ne_truncated : decode w ≠ .error .truncated := by
  unfold decode
  split <;>
    simp [ite_eq_iff, decodeFixed_eq_error_iff, decodeAlu_eq_error_iff, decodeKey_eq_error_iff,
      decodeMisc_eq_error_iff]

/-- `illegalPatterns` leaves no row out. -/
theorem wellFormedWord_iff : wellFormedWord w = true ↔ ∀ p : IllegalPattern, ¬ p.covers w = true := by
  refine ⟨fun h p => ?_, fun h => ?_⟩
  · simpa using List.all_eq_true.mp h p (by cases p <;> decide)
  · exact List.all_eq_true.mpr fun p _ => by simpa using h p

end Reject

/-- Settles O3: a word that decodes is covered by no row, for the row that covers it would reject it. -/
theorem decodeRejectsExactlyIllegalWords : Obligations.DecodeRejectsExactlyIllegalWords := by
  have reject_iff (w : Word) (p : IllegalPattern) : decode w = .error (.illegal p) ↔ p.covers w = true :=
    (decode_eq_illegal_iff p).trans p.covers_iff.symm
  refine ⟨reject_iff, fun w => decode_ne_truncated, fun w => ?_⟩
  simp only [wellFormedWord_iff, ← reject_iff]
  cases h : decode w with
  | ok i => simp
  | error e =>
    cases e with
    | truncated => exact absurd h decode_ne_truncated
    | illegal p => simp

end Sys2Proof

namespace Sys2Proof.Machine

/-! ## The fetch (spec/30_encoding.md R90; spec/20_memory.md R54) -/

/-- A table word laid out big-endian is decoded as the word it is. -/
theorem decodeTableWord_eq_some_iff {w : Nat} {i : Instr} :
    decodeTableWord 16 w = some i ↔ decode (tableWord 16 w) = .ok i := by
  unfold decodeTableWord
  simp only [decodeBytes, wordOfBytes_high_low]
  cases decode (tableWord 16 w) <;> simp

/-- A fetch with two bytes at `PC` (R90). -/
theorem State.fetchWord_of_lt {s : State} (h : s.pc.toNat + 1 < 4096) :
    s.fetchWord = .ok (wordOfBytes (s.readByte s.pc.toNat) (s.readByte (s.pc.toNat + 1))) := by
  rcases s.fetchWord_cases with ⟨hbad, _⟩ | ⟨_, e⟩
  · omega
  · exact e

/-- A word placed at `PC` is the word fetched. -/
theorem State.fetchWord_placeWord {s : State} (hmem : s.mem.wf = true) (hpc : s.pc.toNat + 1 < 4096) (w : Word) :
    (s.placeWord w).fetchWord = .ok w := by
  have hread := Memory.read_writeBytes hmem (a := s.pc.toNat) (bs := [highByte w, lowByte w]) (by simp; omega)
  rw [State.fetchWord_of_lt (s := s.placeWord w) hpc]
  simp [State.placeWord, hread, wordOfBytes_high_low]

/-- `readyToFetch` leaves `PC` where two bytes are. -/
theorem State.readyToFetch_pc_lt (s : State) : s.readyToFetch.pc.toNat + 1 < 4096 := by
  simp only [State.readyToFetch, Config.memSize]
  split
  · decide
  · omega

/-- Settles O6: the fetch gives the placed word, and no fault or other mode is left to stop the step. -/
theorem placedWordIsFetchedAndRun : Obligations.PlacedWordIsFetchedAndRun := by
  intro s w i hmem hw
  have hfetch : (s.withFetchWord 16 w).fetchWord = .ok (tableWord 16 w) :=
    State.fetchWord_placeWord (s := s.readyToFetch) hmem s.readyToFetch_pc_lt _
  exact step_of_decode (s := s.withFetchWord 16 w) rfl rfl hfetch (decodeTableWord_eq_some_iff.mp hw)

/-! ## What a step answers and what an instruction leaves alone (R92, R93) -/

/-- Every instruction ends in a next state: it raises or it completes. -/
theorem exec_answers_next (i : Instr) (s : State) : ∃ t, exec i s = .next t := by
  rcases exec_cases i s with ⟨k, _, e⟩ | ⟨u, n, _, e⟩
  · exact ⟨_, e⟩
  · exact ⟨_, e⟩

/-- Settles O10: every case of a step is a next state, the last because `exec` answers one. -/
theorem stepAlwaysAnswersNext : Obligations.StepAlwaysAnswersNext := by
  intro s
  rcases step_cases s with
    ⟨_, e⟩ | ⟨_, _, e⟩ | ⟨_, _, e⟩ | ⟨_, _, _, e⟩ | ⟨_, _, w, _, ⟨_, e⟩ | ⟨i, _, e⟩⟩
  · exact ⟨_, e⟩
  · exact ⟨_, e⟩
  · exact ⟨_, e⟩
  · exact ⟨_, e⟩
  · exact ⟨_, e⟩
  · rw [e]; exact exec_answers_next i s

/-- `s` with the listed elements taken from `t`. -/
def State.withElementsOf (s t : State) (l : List Element) : State where
  mem := if .mem ∈ l then t.mem else s.mem
  v := if .regs ∈ l then t.v else s.v
  pc := if .pc ∈ l then t.pc else s.pc
  i := if .index ∈ l then t.i else s.i
  stack := if .stack ∈ l then t.stack else s.stack
  dt := if .dt ∈ l then t.dt else s.dt
  st := if .st ∈ l then t.st else s.st
  fb := if .fb ∈ l then t.fb else s.fb
  mode := if .mode ∈ l then t.mode else s.mode
  key := if .key ∈ l then t.key else s.key
  waitReg := if .waitReg ∈ l then t.waitReg else s.waitReg
  fault := if .fault ∈ l then t.fault else s.fault
  draws := if .draws ∈ l then t.draws else s.draws

/-- A state that is `s` but for the listed elements keeps every other element of `s`. -/
theorem State.keepsAllBut_of_eq {s t : State} {l : List Element} (h : t = s.withElementsOf t l) :
    s.keepsAllBut l t := by
  intro e he
  rw [h]
  cases e with
  | mem => exact fun a => congrArg (Memory.read · a) (if_neg he)
  | regs => exact fun r => congrArg (·[r.toNat]'r.isLt) (if_neg he)
  | _ => exact if_neg he

/-- A frame is a frame for more elements. -/
theorem State.keepsAllBut.mono {s t : State} {l l' : List Element} (h : s.keepsAllBut l t) (hl : l ⊆ l') :
    s.keepsAllBut l' t :=
  fun e he => h e fun hmem => he (hl hmem)

/-- Every rule names `PC`: the commit writes it (R92). -/
theorem pc_mem_mayWrite (i : Instr) : .pc ∈ mayWrite i := by
  cases i <;> simp [mayWrite]

/-- A rule that can raise names `FAULT` (spec/60_exceptions.md R170). -/
theorem fault_mem_mayWrite {s : State} {i : Instr} {k : FaultKind} (h : raisesWhen s i k) : .fault ∈ mayWrite i := by
  cases i with
  | ret | call _ | drw _ _ _ | addI _ | ldF _ | ldB _ | ldMemVx _ | ldVxMem _ => simp [mayWrite]
  | _ => exact h.elim

/-- An instruction that completes leaves every element but those its rule names as it was (spec/00_scope.md R9): each
effect is `s` with some of these elements replaced. -/
theorem Effect.keepsAllBut_commitPc {s u : State} {i : Instr} {n : Nat} (he : Effect s i u n) :
    s.keepsAllBut (mayWrite i) (u.commitPc n) := by
  have hpc := pc_mem_mayWrite i
  cases he with
  | onlyPc => exact (State.keepsAllBut_of_eq (l := [.pc]) rfl).mono (by simp [hpc])
  | register hregs | flagThenRegister hregs =>
    exact (State.keepsAllBut_of_eq (l := [.regs, .pc]) rfl).mono (by simp [hregs, hpc])
  | index hindex => exact (State.keepsAllBut_of_eq (l := [.index, .pc]) rfl).mono (by simp [hindex, hpc])
  | drawn | cleared | sprite | pushed | popped | digits | saved | loaded | parked | delayTimer | soundTimer =>
    exact State.keepsAllBut_of_eq rfl

/-- Settles O54: a raise writes `FAULT` alone, and an effect only what its rule names. -/
theorem instructionsWriteOnlyTheirElements : Obligations.InstructionsWriteOnlyTheirElements := by
  intro i s t h
  rcases exec_next_cases h with ⟨k, hk, rfl⟩ | ⟨u, n, he, rfl⟩
  · obtain ⟨_, hkept⟩ := s.onlyFaulted_raise k (some (encode i))
    exact hkept.mono (by simpa using fault_mem_mayWrite hk)
  · exact he.keepsAllBut_commitPc

/-! ## One step in each case (R90 to R97) -/

/-- Settles O5: the two bytes at `PC` are the fetched word. -/
theorem stepRunsDecodedInstruction : Obligations.StepRunsDecodedInstruction :=
  fun _ _ hf hm hpc hd => step_of_decode hf hm (State.fetchWord_of_lt hpc) hd

/-- Settles O7: `PC + 1` is in memory exactly when `PC` is not FFF. -/
theorem fetchReadsTwoBytesBigEndian : Obligations.FetchReadsTwoBytesBigEndian := by
  intro s hf hm
  refine ⟨fun hpc => ?_, fun hpc => ?_⟩
  · have hfetch : s.fetchWord = .error .memoryAccess := by simp [State.fetchWord, hpc]
    exact ⟨_, step_of_fetch_error hf hm hfetch, s.onlyFaulted_raise _ _⟩
  · exact ⟨_, State.fetchWord_of_lt (by bv_omega), wordOfBytes_toNat _ _⟩

/-- Settles O8: the step is a raise, which writes the record alone. -/
theorem illegalWordRaisesAndChangesNothing : Obligations.IllegalWordRaisesAndChangesNothing :=
  fun s _ _ hf hm hw hd => ⟨_, step_of_illegal hf hm hw hd, s.onlyFaulted_raise _ _⟩

/-- Settles O9: the step is a raise in both modes. -/
theorem stepInUnknownModeRaises : Obligations.StepInUnknownModeRaises :=
  fun s hf hm => ⟨_, step_of_no_mode hf hm, s.onlyFaulted_raise _ _⟩

end Sys2Proof.Machine

/-! # The control family: the no-operation, the jumps, the call, the return and the register skips
(spec/40_control.md R100 to R110) -/

namespace Sys2Proof.Machine

variable (s : State)

/-! ## The commit of the next PC (spec/30_encoding.md R92) -/

/-- Committing an address goes to it: it is below the memory size. -/
theorem State.commitPc_addr (a : Addr) : (s.commitPc a.toNat).pc = a := by
  apply BitVec.eq_of_toNat_eq
  rw [s.commitPc_toNat]
  exact Nat.mod_eq_of_lt a.isLt

/-- Committing to the state an instruction started from moves `PC` and nothing else. -/
theorem State.onlyMovedPc_commitPc (n : Nat) : s.onlyMovedPc n (s.commitPc n) :=
  ⟨s.commitPc_toNat n, State.keepsAllBut_of_eq rfl⟩

/-- Committing a new stack and a next PC keeps every other element. -/
theorem State.keepsAllBut_setStack_commitPc (frames : List Addr) (n : Nat) :
    s.keepsAllBut [.stack, .pc] ((s.setStack frames).commitPc n) :=
  State.keepsAllBut_of_eq rfl

/-- A skip on `p` adds 4 when `p` holds and 2 when not (spec/40_control.md R101). -/
theorem State.onlyMovedPc_skip (p : Prop) [Decidable p] :
    s.onlyMovedPc (s.pc.toNat + if p then 4 else 2) (s.commitPc (s.skipPc (decide p))) := by
  have hskip : s.skipPc (decide p) = s.pc.toNat + if p then 4 else 2 := by simp [s.skipPc_eq]
  rw [hskip]
  exact s.onlyMovedPc_commitPc _

/-- A skip on "not `p`" adds 2 when `p` holds and 4 when not (R101). -/
theorem State.onlyMovedPc_skip_not (p : Prop) [Decidable p] :
    s.onlyMovedPc (s.pc.toNat + if p then 2 else 4) (s.commitPc (s.skipPc (decide ¬p))) := by
  rw [← ite_not p 4 2]
  exact s.onlyMovedPc_skip (¬p)

/-! ## The instructions -/

/-- Settles O20: the rule proposes `PC + 2` and leaves the state it started from. -/
theorem nopOnlyAdvances : Obligations.NopOnlyAdvances :=
  ⟨decodeInvertsEncode .nop, fun s => ⟨_, rfl, s.onlyMovedPc_commitPc _⟩⟩

/-- Settles O21: each rule proposes its target and leaves the state it started from. -/
theorem jumpsGoToTheirTarget : Obligations.JumpsGoToTheirTarget := by
  intro nnn s
  refine ⟨⟨decodeInvertsEncode (.jp nnn), ?_⟩, decodeInvertsEncode (.jpV0 nnn), ?_⟩
  · exact ⟨_, rfl, s.onlyMovedPc_commitPc _⟩
  · exact ⟨_, rfl, s.onlyMovedPc_commitPc _⟩

/-- Settles O22, by the three cases of a call: the pushed address is `PC + 2` itself, since the first case bounds it. -/
theorem callPushesTheReturnAddress : Obligations.CallPushesTheReturnAddress := by
  intro nnn s
  refine ⟨decodeInvertsEncode (.call nnn), fun hpc hroom => ?_, fun hend => ?_, fun hpc hfull => ?_⟩
  · have hpushed : (BitVec.ofNat 12 (s.pc.toNat + 2)).toNat = s.pc.toNat + 2 := Nat.mod_eq_of_lt hpc
    refine ⟨_, execCall_of_room nnn hpc hroom, State.commitPc_addr _ nnn, ?_, s.keepsAllBut_setStack_commitPc _ _⟩
    rw [State.commitPc_stack, State.setStack_stack, List.map_append, List.map_singleton, hpushed]
  · exact ⟨_, execCall_of_end nnn hend, s.onlyFaulted_raise _ _⟩
  · exact ⟨_, execCall_of_full nnn hpc hfull, s.onlyFaulted_raise _ _⟩

/-- Settles O23, by the two cases of a return: an address on the stack, or none. -/
theorem returnPopsTheStack : Obligations.ReturnPopsTheStack := by
  refine ⟨decodeInvertsEncode .ret, fun s rest a hstack => ?_, fun s hnil => ?_⟩
  · exact ⟨_, execRet_of_append hstack, State.commitPc_addr _ a, rfl, s.keepsAllBut_setStack_commitPc _ _⟩
  · exact ⟨_, execRet_of_nil hnil, s.onlyFaulted_raise _ _⟩

/-- Settles O25: each rule is a skip on its comparison, and under `T = 5` and `T = 9` the decoder rejects every word
whose `N` is not 0. -/
theorem registerSkipsAddFourOrTwo : Obligations.RegisterSkipsAddFourOrTwo := by
  intro x y nn s
  refine ⟨⟨decodeInvertsEncode (.seImm x nn), ?_⟩, ⟨decodeInvertsEncode (.sneImm x nn), ?_⟩,
    ⟨decodeInvertsEncode (.seReg x y), ?_⟩, ⟨decodeInvertsEncode (.sneReg x y), ?_⟩, fun n hn => ⟨?_, ?_⟩⟩
  · exact ⟨_, rfl, s.onlyMovedPc_skip (s.readReg x = nn)⟩
  · exact ⟨_, rfl, s.onlyMovedPc_skip_not (s.readReg x = nn)⟩
  · exact ⟨_, rfl, s.onlyMovedPc_skip (s.readReg x = s.readReg y)⟩
  · exact ⟨_, rfl, s.onlyMovedPc_skip_not (s.readReg x = s.readReg y)⟩
  · exact (decode_eq_illegal_iff .p5XYN).mpr (by simpa [IllegalPattern.coversFields] using hn)
  · exact (decode_eq_illegal_iff .p9XYN).mpr (by simpa [IllegalPattern.coversFields] using hn)

end Sys2Proof.Machine


/-! # The arithmetic-logic family: loads, bitwise operations, arithmetic, shifts and the random byte
(spec/41_alu.md R120 to R133) -/

namespace Sys2Proof.Machine

/-! ## Flags and results in numbers (R120) -/

section Numbers
variable (a b : Byte)

theorem flagByte_toNat (c : Bool) : (flagByte c).toNat = if c then 1 else 0 := by cases c <;> rfl

theorem carryFlag_toNat : (carryFlag a b).toNat = if a.toNat + b.toNat > 255 then 1 else 0 := by
  simp only [carryFlag, flagByte_toNat, decide_eq_true_eq]

theorem noBorrowFlag_toNat : (noBorrowFlag a b).toNat = if a.toNat ≥ b.toNat then 1 else 0 := by
  simp only [noBorrowFlag, flagByte_toNat, decide_eq_true_eq]

/-- A bit of a byte, as a flag. -/
theorem flagByte_getLsbD_toNat (k : Nat) : (flagByte (a.getLsbD k)).toNat = a.toNat / 2 ^ k % 2 := by
  rw [flagByte_toNat, BitVec.getLsbD, Nat.testBit_eq_decide_div_mod_eq]
  rcases Nat.mod_two_eq_zero_or_one (a.toNat / 2 ^ k) with h | h <;> simp [h]

theorem shrFlag_toNat : (shrFlag a).toNat = a.toNat % 2 := by
  rw [shrFlag, flagByte_getLsbD_toNat, pow_zero, Nat.div_one]

/-- Bit 7 is the top bit, so the quotient by 128 needs no reduction. -/
theorem shlFlag_toNat : (shlFlag a).toNat = a.toNat / 128 := by
  rw [shlFlag, flagByte_getLsbD_toNat]
  omega

theorem addResult_toNat : (addResult a b).toNat = (a.toNat + b.toNat) % 256 := by
  rw [addResult, BitVec.toNat_ofNat]

theorem subResult_toNat : (subResult a b).toNat = (256 + a.toNat - b.toNat) % 256 := by
  rw [subResult, BitVec.toNat_ofInt]
  omega

/-- A quotient of a byte is a byte. -/
theorem shrResult_toNat : (shrResult a b).toNat = a.toNat / 2 ^ b.toNat := by
  rw [shrResult, BitVec.toNat_ofNat]
  exact Nat.mod_eq_of_lt ((Nat.div_le_self _ _).trans_lt a.isLt)

theorem shlResult_toNat : (shlResult a b).toNat = a.toNat * 2 ^ b.toNat % 256 := by
  rw [shlResult, BitVec.toNat_ofNat]

end Numbers

/-- The operand that `ReadOperands()` gives (R121), in numbers. -/
theorem rereadOperand_toNat (r : Reg) (old f : Byte) :
    (rereadOperand Config.flagAlias r old f).toNat = aliasedOperand r old.toNat f.toNat := by
  by_cases hr : r = 0xF#4
  · cases hfa : Config.flagAlias <;> simp [rereadOperand, aliasedOperand, regVF, hr, hfa]
  · simp [rereadOperand_of_ne hr, aliasedOperand, hr]

/-! ## The two shapes of an instruction: a register write, and a flag write before it -/

section Shapes
variable (s : State)

/-- Committing the proposed `PC` adds 2, whatever the rule did to the rest of the state. -/
theorem State.pcAdvancedBy_commitPc_seqPc (u : State) : s.pcAdvancedBy 2 (u.commitPc s.seqPc) := u.commitPc_toNat _

/-- A rule that writes one register and proposes `PC + 2` does nothing else. -/
theorem State.onlyWroteReg_writeReg (x : Reg) (b : Byte) :
    s.onlyWroteReg x b.toNat ((s.writeReg x b).commitPc s.seqPc) := by
  refine ⟨?_, fun r hr => ?_, s.pcAdvancedBy_commitPc_seqPc _, State.keepsAllBut_of_eq rfl⟩
  · rw [State.readReg_commitPc, State.readReg_writeReg_self]
  · exact s.readReg_writeReg_ne hr b

/-- A flag-writing rule has its outcome, for a flag and a result that are given in numbers. -/
theorem State.aluOutcome_aluWithFlag {x y : Reg} {flag result : Byte → Byte → Byte} {flagNat : Nat}
    {resultNat : Nat → Nat → Nat} (hflag : (flag (s.readReg x) (s.readReg y)).toNat = flagNat)
    (hresult : ∀ a b, (result a b).toNat = resultNat a.toNat b.toNat) :
    s.aluOutcome x y flagNat resultNat
      ((aluWithFlag Config.flagAlias x y flag result s).commitPc s.seqPc) := by
  subst hflag
  refine ⟨?_, fun hx => ?_, fun r hr => ?_, s.pcAdvancedBy_commitPc_seqPc _, State.keepsAllBut_of_eq rfl⟩
  · rw [State.readReg_commitPc, aluWithFlag, State.readReg_writeReg_self, hresult, rereadOperand_toNat,
      rereadOperand_toNat]
  · rw [State.readReg_commitPc, aluWithFlag, State.readReg_writeReg_ne _ hx.symm, State.writeFlag_eq,
      State.readReg_writeReg_self]
  · obtain ⟨hx, hvf⟩ := not_or.mp hr
    exact ((s.writeFlag _).readReg_writeReg_ne hx _).trans (s.readReg_writeReg_ne hvf _)

end Shapes

/-! ## The instructions -/

/-- Settles O34, by what each reading makes of an operand: SNAPSHOT keeps its first value, SEQUENTIAL reads it in the
state the flag write left, and both keep the first value of a register that is not VF. -/
theorem flagAliasReadings : Obligations.FlagAliasReadings := by
  intro x y flag result s
  refine ⟨?_, ?_, fun hx hy => ?_⟩
  · simp only [aluWithFlag, rereadOperand_snapshot, State.writeFlag_eq]
  · simp only [aluWithFlag, rereadOperand_sequential, State.writeFlag_eq]
  · simp only [aluWithFlag, rereadOperand_of_ne hx, rereadOperand_of_ne hy]

/-- Settles O27: each rule is one register write. -/
theorem loadsAndLogicWriteOnlyVx : Obligations.LoadsAndLogicWriteOnlyVx := by
  intro x y nn s
  refine ⟨⟨decodeInvertsEncode (.ldImm x nn), ?_⟩, ⟨decodeInvertsEncode (.ldReg x y), ?_⟩,
    ⟨decodeInvertsEncode (.orReg x y), ?_⟩, ⟨decodeInvertsEncode (.andReg x y), ?_⟩,
    decodeInvertsEncode (.xorReg x y), ?_⟩
  · exact ⟨_, rfl, s.onlyWroteReg_writeReg x nn⟩
  · exact ⟨_, rfl, s.onlyWroteReg_writeReg x (s.readReg y)⟩
  · rw [← BitVec.toNat_or]
    exact ⟨_, rfl, s.onlyWroteReg_writeReg x _⟩
  · rw [← BitVec.toNat_and]
    exact ⟨_, rfl, s.onlyWroteReg_writeReg x _⟩
  · rw [← BitVec.toNat_xor]
    exact ⟨_, rfl, s.onlyWroteReg_writeReg x _⟩

/-- Settles O28: the rule is one register write, of the sum. -/
theorem addImmediateWrapsWithoutFlag : Obligations.AddImmediateWrapsWithoutFlag := by
  intro x nn s
  refine ⟨decodeInvertsEncode (.addImm x nn), ?_⟩
  rw [← addResult_toNat]
  exact ⟨_, rfl, s.onlyWroteReg_writeReg x _⟩

/-- Settles O29, by the flag and the result in numbers. -/
theorem addWritesCarryThenSum : Obligations.AddWritesCarryThenSum :=
  fun x y s => ⟨decodeInvertsEncode (.addReg x y), _, rfl,
    s.aluOutcome_aluWithFlag (carryFlag_toNat _ _) addResult_toNat⟩

/-- Settles O30, by the flag and the result in numbers. -/
theorem subWritesNoBorrowThenDifference : Obligations.SubWritesNoBorrowThenDifference :=
  fun x y s => ⟨decodeInvertsEncode (.sub x y), _, rfl,
    s.aluOutcome_aluWithFlag (noBorrowFlag_toNat _ _) subResult_toNat⟩

/-- Settles O31, by the flag and the result in numbers. -/
theorem shiftRightWritesBitZeroThenQuotient : Obligations.ShiftRightWritesBitZeroThenQuotient :=
  fun x y s => ⟨decodeInvertsEncode (.shr x y), _, rfl,
    s.aluOutcome_aluWithFlag (shrFlag_toNat _) shrResult_toNat⟩

/-- Settles O32: the flag and the result of O30 with the operands exchanged. -/
theorem subnWritesNoBorrowThenDifference : Obligations.SubnWritesNoBorrowThenDifference :=
  fun x y s => ⟨decodeInvertsEncode (.subn x y), _, rfl,
    s.aluOutcome_aluWithFlag (noBorrowFlag_toNat _ _) fun a b => subResult_toNat b a⟩

/-- Settles O33, by the flag and the result in numbers. -/
theorem shiftLeftWritesBitSevenThenProduct : Obligations.ShiftLeftWritesBitSevenThenProduct :=
  fun x y s => ⟨decodeInvertsEncode (.shl x y), _, rfl,
    s.aluOutcome_aluWithFlag (shlFlag_toNat _) shlResult_toNat⟩

/-- Settles O35: the draw moves the counter alone, and the masked byte goes to `Vx`. -/
theorem randomByteIsDrawnAndMasked : Obligations.RandomByteIsDrawnAndMasked := by
  intro x nn s
  refine ⟨decodeInvertsEncode (.rnd x nn), _, rfl, ?_, rfl, fun r hr => ?_, s.pcAdvancedBy_commitPc_seqPc _,
    State.keepsAllBut_of_eq rfl⟩
  · exact State.readReg_writeReg_self _ x _
  · exact s.drawByte.2.readReg_writeReg_ne hr _

end Sys2Proof.Machine

/-! # The index and memory family: the index register, the decimal split, and register save and restore
(spec/42_index_memory.md R140 to R145) -/

namespace Sys2Proof.Machine

/-- The two ends of a rule that raises under `R` and completes under `C`: completed, it leaves a state with `Q`; raised,
it writes the record alone (spec/60_exceptions.md R171). -/
theorem exec_completes_and_raises {s t : State} {i : Instr} {k : FaultKind} {R C : Prop} {Q : State → Prop}
    (hends : (R ∧ exec i s = .next (s.raise k (some (encode i)))) ∨ (C ∧ exec i s = .next t))
    (hexclusive : C → ¬ R) (ht : C → Q t) :
    (C → ∃ t, exec i s = .next t ∧ Q t) ∧
    (R → ∃ t, exec i s = .next t ∧ s.onlyFaulted k (some (encode i)) t) := by
  refine ⟨fun hC => ?_, fun hR => ?_⟩
  · obtain ⟨_, e⟩ := hends.resolve_left fun h => hexclusive hC h.1
    exact ⟨t, e, ht hC⟩
  · obtain ⟨_, e⟩ := hends.resolve_right fun h => hexclusive h.1 hR
    exact ⟨_, e, s.onlyFaulted_raise _ _⟩

/-! ## The index register (R140 to R142) -/

/-- `I` holds what was set, whatever next PC is committed. -/
theorem State.setIndex_commitPc_toNat (u : State) {n : Nat} (hn : n < 65536) (pc : Nat) :
    ((u.setIndex n).commitPc pc).i.toNat = n :=
  u.setIndex_toNat hn

/-- Setting `I` and adding 2 to `PC` does that and nothing else. -/
theorem State.setIndex_commitPc_seqPc (s : State) {n : Nat} (hn : n < 65536) :
    ((s.setIndex n).commitPc s.seqPc).i.toNat = n
      ∧ s.pcAdvancedBy 2 ((s.setIndex n).commitPc s.seqPc)
      ∧ s.keepsAllBut [.index, .pc] ((s.setIndex n).commitPc s.seqPc) :=
  ⟨s.setIndex_commitPc_toNat hn _, s.pcAdvancedBy_commitPc_seqPc _, State.keepsAllBut_of_eq rfl⟩

/-- Settles O36: every address fits `I`. -/
theorem loadIndexSetsI : Obligations.LoadIndexSetsI :=
  fun nnn s => ⟨decodeInvertsEncode (.ldI nnn), _, rfl, s.setIndex_commitPc_seqPc (by omega)⟩

/-- Settles O37: a sum up to the memory size fits `I`. -/
theorem addToIndexRaisesAboveMemorySize : Obligations.AddToIndexRaisesAboveMemorySize :=
  fun x s => ⟨decodeInvertsEncode (.addI x),
    exec_completes_and_raises (execAddI_cases s x) Nat.not_lt.mpr fun _ => s.setIndex_commitPc_seqPc (by omega)⟩

/-- Settles O38: the address of a digit's glyph fits `I`. -/
theorem glyphAddressForDigitsOnly : Obligations.GlyphAddressForDigitsOnly :=
  fun x s => ⟨decodeInvertsEncode (.ldF x),
    exec_completes_and_raises (execLdF_cases s x) Nat.not_lt.mpr fun _ => s.setIndex_commitPc_seqPc (by omega)⟩

/-! ## The decimal split, save and restore (R143 to R145) -/

/-- The `k`-th byte of a run of writes is read back `k` above its start. -/
theorem Memory.read_writeBytes_add {m : Memory} {a k : Nat} {bs : List Byte} (hm : m.wf = true)
    (hfits : a + bs.length ≤ 4096) (hk : k < bs.length) :
    Memory.read (Memory.writeBytes m a bs) (a + k) = bs.getD k 0 := by
  rw [Memory.read_writeBytes hm hfits, if_pos (by omega), Nat.add_sub_cancel_left]

/-- The byte of `V0..Vx` at the index of a register is that register. -/
theorem State.regsUpTo_getD_toNat (s : State) {x r : Reg} (hr : r.toNat ≤ x.toNat) :
    (s.regsUpTo x).getD r.toNat 0 = s.readReg r := by
  rw [s.regsUpTo_getD x hr, BitVec.ofNat_toNat, BitVec.setWidth_eq]

/-- Writing a byte for each of `V0..Vx` gives each its byte and leaves the registers above `Vx` alone. -/
theorem State.readReg_writeRegs_range (s : State) (x r : Reg) (f : Nat → Byte) :
    (s.writeRegs 0 ((List.range (x.toNat + 1)).map f)).readReg r
      = if r.toNat ≤ x.toNat then f r.toNat else s.readReg r := by
  have hx := x.isLt
  have hlen : ((List.range (x.toNat + 1)).map f).length = x.toNat + 1 := by simp
  rw [s.readReg_writeRegs (by omega), hlen]
  by_cases hr : r.toNat ≤ x.toNat
  · rw [if_pos (by omega), if_pos hr]
    simp [List.getD_eq_getElem?_getD, Nat.lt_succ_of_le hr]
  · rw [if_neg (by omega), if_neg hr]

/-- A run of register writes, a new `I` and a next PC keep every other element. -/
theorem State.keepsAllBut_writeRegs_setIndex_commitPc (s : State) (k : Nat) (bs : List Byte) (n pc : Nat) :
    s.keepsAllBut [.regs, .index, .pc] (((s.writeRegs k bs).setIndex n).commitPc pc) := by
  obtain ⟨v, hv⟩ := s.writeRegs_eq k bs
  rw [hv]
  exact State.keepsAllBut_of_eq rfl

/-- A digit is below 256, so each byte of the split is its digit. -/
theorem decimalDigits_toNat (b : Byte) :
    ((decimalDigits b).getD 0 0).toNat = b.toNat / 100 ∧ ((decimalDigits b).getD 1 0).toNat = b.toNat / 10 % 10
      ∧ ((decimalDigits b).getD 2 0).toNat = b.toNat % 10 := by
  simp only [decimalDigits, List.getD_cons_zero, List.getD_cons_succ, BitVec.toNat_ofNat]
  omega

/-- Settles O39: the three digits are read back where they were written. -/
theorem decimalDigitsAreStored : Obligations.DecimalDigitsAreStored := by
  intro x s hm
  refine ⟨decodeInvertsEncode (.ldB x), exec_completes_and_raises (execLdB_cases s x) Nat.not_le.mpr fun h => ?_⟩
  have hlen := decimalDigits_length (s.readReg x)
  have hstored (k : Nat) (hk : k < 3) :
      Memory.read (Memory.writeBytes s.mem s.i.toNat (decimalDigits (s.readReg x))) (s.i.toNat + k)
        = (decimalDigits (s.readReg x)).getD k 0 :=
    Memory.read_writeBytes_add hm (by omega) (by omega)
  obtain ⟨hundreds, tens, ones⟩ := decimalDigits_toNat (s.readReg x)
  refine ⟨?_, ?_, ?_, fun a ha => ?_, s.pcAdvancedBy_commitPc_seqPc _, State.keepsAllBut_of_eq rfl⟩
  · exact (congrArg BitVec.toNat (hstored 0 (by decide))).trans hundreds
  · exact (congrArg BitVec.toNat (hstored 1 (by decide))).trans tens
  · exact (congrArg BitVec.toNat (hstored 2 (by decide))).trans ones
  · exact Memory.read_writeBytes_of_outside hm (by omega) (by omega)

/-- Settles O40: `V0..Vx` are read back where they were written. -/
theorem registersAreSavedAscending : Obligations.RegistersAreSavedAscending := by
  intro x s hm
  refine ⟨decodeInvertsEncode (.ldMemVx x),
    exec_completes_and_raises (execLdMemVx_cases s x) Nat.not_le.mpr fun h => ?_⟩
  have hlen := s.regsUpTo_length x
  refine ⟨fun r hr => ?_, fun a ha => ?_, State.setIndex_commitPc_toNat _ (by omega) _,
    s.pcAdvancedBy_commitPc_seqPc _, State.keepsAllBut_of_eq rfl⟩
  · exact (Memory.read_writeBytes_add hm (by omega) (by omega)).trans (s.regsUpTo_getD_toNat hr)
  · exact Memory.read_writeBytes_of_outside hm (by omega) (by omega)

/-- Settles O41: the bytes loaded go to `V0..Vx` and no further. -/
theorem registersAreLoadedAscending : Obligations.RegistersAreLoadedAscending := by
  intro x s
  refine ⟨decodeInvertsEncode (.ldVxMem x),
    exec_completes_and_raises (execLdVxMem_cases s x) Nat.not_le.mpr fun h => ?_⟩
  refine ⟨fun r hr => ?_, fun r hr => ?_, State.setIndex_commitPc_toNat _ (by omega) _,
    s.pcAdvancedBy_commitPc_seqPc _, s.keepsAllBut_writeRegs_setIndex_commitPc _ _ _ _⟩
  · exact (s.readReg_writeRegs_range x r _).trans (if_pos hr)
  · exact (s.readReg_writeRegs_range x r _).trans (if_neg hr)

/-- Settles O42: the load reads the bytes of the saved registers, for memory and `I` are those of the save. -/
theorem savedRegistersAreRestored : Obligations.SavedRegistersAreRestored := by
  intro x s t u hm hfits hsave hmem hindex
  obtain ⟨_, hsaves, _⟩ := registersAreSavedAscending x s hm
  obtain ⟨t', hsave', hsaved, _⟩ := hsaves hfits
  cases hsave.symm.trans hsave'
  obtain ⟨_, hloads, _⟩ := registersAreLoadedAscending x u
  obtain ⟨v, hload, hloaded, _⟩ := hloads (hindex ▸ hfits)
  refine ⟨v, hload, fun r hr => ?_⟩
  calc v.readReg r = u.readByte (u.i.toNat + r.toNat) := hloaded r hr
    _ = t.readByte (s.i.toNat + r.toNat) := by rw [hindex, State.readByte_eq, hmem, State.readByte_eq]
    _ = s.readReg r := hsaved r hr

end Sys2Proof.Machine

/-! # The display family: the clear screen, the sprite draw and two draws in a row (spec/43_display.md R150 to R152) -/

namespace Sys2Proof.Machine

/-! ## Pixels and flags -/

/-- A framebuffer is its pixels. -/
theorem Framebuffer.ext_pixel {a b : Framebuffer}
    (h : ∀ px py, px < 64 → py < 32 → a.pixel px py = b.pixel px py) : a = b := by
  refine Vector.ext fun y hy => BitVec.eq_of_getLsbD_eq fun x hx => ?_
  have hpixel := h x y hx hy
  simp only [Framebuffer.pixel, Nat.mod_eq_of_lt hx, Nat.mod_eq_of_lt hy] at hpixel
  exact hpixel

@[simp] theorem Framebuffer.pixel_clear (px py : Nat) : Framebuffer.clear.pixel px py = false := by
  simp [Framebuffer.pixel, Framebuffer.clear]

theorem flagByte_eq_one_iff (c : Bool) : flagByte c = 1#8 ↔ c = true := by cases c <;> decide

theorem flagByte_eq_zero_or_one (c : Bool) : flagByte c = 0#8 ∨ flagByte c = 1#8 := by cases c <;> decide

/-- VF is the flag written, whatever next PC is committed. -/
theorem State.readReg_writeFlag_commitPc (u : State) (f : Byte) (pc : Nat) :
    ((u.writeFlag f).commitPc pc).readReg 0xF#4 = f :=
  u.readReg_writeReg_self 0xF#4 f

/-! ## What a draw does, for a pattern of bits

`XorsBits` is what a part of a draw does to the screen. Parts that set no pixel in common compose, so a draw is read off
its pixels. -/

/-- The draw `d` of a pattern on `fb`: the screen holds the XOR, and the flag tells whether a set pixel got a 1 bit. -/
structure Framebuffer.XorsBits (fb : Framebuffer) (d : Framebuffer × Bool) (bit : Nat → Nat → Bool) : Prop where
  pixel : ∀ px py, px < 64 → py < 32 → d.1.pixel px py = (fb.pixel px py ^^ bit px py)
  hit : d.2 = true ↔ ∃ px py, px < 64 ∧ py < 32 ∧ fb.pixel px py = true ∧ bit px py = true

namespace Framebuffer.XorsBits
variable {fb : Framebuffer} {d e : Framebuffer × Bool} {bit bit' : Nat → Nat → Bool}

/-- Only the pattern's bits on the screen count. -/
theorem congr (h : fb.XorsBits d bit) (hbit : ∀ px py, px < 64 → py < 32 → bit px py = bit' px py) :
    fb.XorsBits d bit' where
  pixel px py hx hy := hbit px py hx hy ▸ h.pixel px py hx hy
  hit := by
    rw [h.hit]
    refine exists₂_congr fun px py => and_congr_right fun hx => and_congr_right fun hy => ?_
    rw [hbit px py hx hy]

/-- Nothing drawn is the draw of no bit. -/
theorem nothing (fb : Framebuffer) : fb.XorsBits (fb, false) fun _ _ => false where
  pixel _ _ _ _ := (Bool.xor_false _).symm
  hit := by simp

/-- Two draws that share no pixel are the draw of both patterns: where the second has a bit, the first left the pixel
as it was. -/
theorem append (h : fb.XorsBits d bit) (h' : d.1.XorsBits e bit')
    (hdisjoint : ∀ px py, px < 64 → py < 32 → bit' px py = true → bit px py = false) :
    fb.XorsBits (e.1, d.2 || e.2) fun px py => bit px py || bit' px py where
  pixel px py hx hy := by
    rw [h'.pixel px py hx hy, h.pixel px py hx hy]
    cases hb' : bit' px py with
    | false => simp
    | true => simp [hdisjoint px py hx hy hb']
  hit := by
    have hsecond : e.2 = true ↔ ∃ px py, px < 64 ∧ py < 32 ∧ fb.pixel px py = true ∧ bit' px py = true := by
      rw [h'.hit]
      refine exists₂_congr fun px py => and_congr_right fun hx => and_congr_right fun hy =>
        and_congr_left fun hb' => ?_
      rw [h.pixel px py hx hy, hdisjoint px py hx hy hb', Bool.xor_false]
    simp only [Bool.or_eq_true, h.hit, hsecond, and_or_left, exists_or]

end Framebuffer.XorsBits

/-! ## From one pixel to a sprite -/

/-- How far `p` is from the origin `o`, going around a side of `m` pixels: the column or row of `spriteBit`. -/
def screenOffset (m o p : Nat) : Nat := (p + m - o % m) % m

/-- The pixel `c` columns from the origin. -/
theorem screenOffset_width_eq_iff {ox px c : Nat} (hpx : px < 64) (hc : c < 64) :
    screenOffset 64 ox px = c ↔ px = (ox + c) % 64 := by
  unfold screenOffset
  omega

/-- The pixel `r` rows from the origin. -/
theorem screenOffset_height_eq_iff {oy py r : Nat} (hpy : py < 32) (hr : r < 32) :
    screenOffset 32 oy py = r ↔ py = (oy + r) % 32 := by
  unfold screenOffset
  omega

/-- The origin one row down is one row nearer, but that the origin's own row is then the farthest. -/
theorem screenOffset_height_succ {oy py : Nat} :
    screenOffset 32 (oy + 1) py = if screenOffset 32 oy py = 0 then 31 else screenOffset 32 oy py - 1 := by
  unfold screenOffset
  split <;> omega

/-- The bits of a row byte drawn at `(ox, y)`, columns `c` to `c + k - 1`. -/
def rowBit (row : Byte) (ox y c k px py : Nat) : Bool :=
  decide (screenOffset 32 y py = 0 ∧ c ≤ screenOffset 64 ox px ∧ screenOffset 64 ox px < c + k)
    && row.getLsbD (7 - screenOffset 64 ox px)

/-- `SetPixel` draws its one bit (R152). -/
theorem Framebuffer.setPixel_xorsBits (fb : Framebuffer) (x y : Nat) (v : Bool) :
    fb.XorsBits (fb.setPixel x y v) fun px py => decide (px = x % 64 ∧ py = y % 32) && v where
  pixel px py hx hy := by
    rw [fb.pixel_setPixel, Nat.mod_eq_of_lt hx, Nat.mod_eq_of_lt hy]
    split <;> simp [*]
  hit := by
    rw [fb.setPixel_hit, Bool.and_eq_true]
    constructor
    · rintro ⟨hset, hv⟩
      refine ⟨x % 64, y % 32, Nat.mod_lt x (by decide), Nat.mod_lt y (by decide), ?_, by simp [hv]⟩
      rwa [fb.pixel_mod]
    · rintro ⟨px, py, -, -, hset, hbit⟩
      obtain ⟨⟨rfl, rfl⟩, hv⟩ := by simpa using hbit
      exact ⟨fb.pixel_mod x y ▸ hset, hv⟩

/-- The one pixel of column `c`. -/
theorem rowBit_one (row : Byte) (ox y : Nat) {c px py : Nat} (hc : c < 64) (hx : px < 64) (hy : py < 32) :
    rowBit row ox y c 1 px py = (decide (px = (ox + c) % 64 ∧ py = y % 32) && row.getLsbD (7 - c)) := by
  have hcolumn : screenOffset 64 ox px = c ↔ px = (ox + c) % 64 := screenOffset_width_eq_iff hx hc
  have hrow : screenOffset 32 y py = 0 ↔ py = y % 32 := screenOffset_height_eq_iff hy (by decide)
  have hone : c ≤ screenOffset 64 ox px ∧ screenOffset 64 ox px < c + 1 ↔ screenOffset 64 ox px = c := by omega
  simp only [rowBit, hone, ← hcolumn, ← hrow]
  by_cases h : screenOffset 64 ox px = c <;> simp [h]

/-- The first column and the columns after it. -/
theorem rowBit_succ (row : Byte) (ox y c k px py : Nat) :
    (rowBit row ox y c 1 px py || rowBit row ox y (c + 1) k px py) = rowBit row ox y c (k + 1) px py := by
  simp only [rowBit, ← Bool.and_or_distrib_right, ← Bool.decide_or]
  congr 2
  apply propext
  omega

/-- Columns are drawn left to right, and no two of them share a pixel. -/
theorem Framebuffer.drawCols_xorsBits (fb : Framebuffer) (ox y : Nat) (row : Byte) {c k : Nat} (h : c + k ≤ 64) :
    fb.XorsBits (fb.drawCols ox y row c k) (rowBit row ox y c k) := by
  induction k generalizing fb c with
  | zero =>
    refine (XorsBits.nothing fb).congr fun px py _ _ => ?_
    simp [rowBit]
  | succ k ih =>
    have hfirst := (fb.setPixel_xorsBits (ox + c) y (row.getLsbD (7 - c))).congr
      fun px py hx hy => (rowBit_one row ox y (by omega) hx hy).symm
    refine (hfirst.append (ih _ (by omega)) fun px py _ _ hlater => ?_).congr
      fun px py _ _ => rowBit_succ row ox y c k px py
    have hcolumn : c + 1 ≤ screenOffset 64 ox px := by
      simp only [rowBit, Bool.and_eq_true, decide_eq_true_eq] at hlater
      omega
    simp [rowBit, Nat.not_lt.mpr hcolumn]

theorem spriteBit_eq (rows : List Byte) (ox oy px py : Nat) :
    spriteBit rows ox oy px py = (decide (screenOffset 64 ox px < 8)
      && (rows.getD (screenOffset 32 oy py) 0).getLsbD (7 - screenOffset 64 ox px)) := rfl

/-- A sprite that is not as high as the screen does not come around to the row above its origin. -/
theorem spriteBit_of_row_above {rows : List Byte} (ox : Nat) {oy px py : Nat} (h : rows.length ≤ 31)
    (habove : screenOffset 32 oy py = 0) : spriteBit rows ox (oy + 1) px py = false := by
  rw [spriteBit_eq, screenOffset_height_succ, if_pos habove, List.getD_eq_default _ _ h]
  exact (congrArg _ BitVec.getLsbD_zero).trans (Bool.and_false _)

/-- The first row and the rows after it. -/
theorem spriteBit_cons (row : Byte) {rows : List Byte} (ox oy px py : Nat) (h : rows.length ≤ 31) :
    spriteBit (row :: rows) ox oy px py
      = (rowBit row ox oy 0 8 px py || spriteBit rows ox (oy + 1) px py) := by
  by_cases hrow : screenOffset 32 oy py = 0
  · rw [spriteBit_of_row_above ox h hrow, Bool.or_false]
    simp [spriteBit_eq, rowBit, hrow]
  · obtain ⟨r, hr⟩ := Nat.exists_eq_succ_of_ne_zero hrow
    simp [spriteBit_eq, rowBit, screenOffset_height_succ, hr]

/-- Rows are drawn top to bottom, and no two of them share a pixel. -/
theorem Framebuffer.drawRows_xorsBits (fb : Framebuffer) (ox oy : Nat) {rows : List Byte} (h : rows.length ≤ 32) :
    fb.XorsBits (fb.drawRows ox oy rows) (spriteBit rows ox oy) := by
  induction rows generalizing fb oy with
  | nil => exact (XorsBits.nothing fb).congr fun px py _ _ => by simp [spriteBit]
  | cons row rows ih =>
    have hlen : rows.length ≤ 31 := Nat.le_of_lt_succ h
    refine ((fb.drawCols_xorsBits ox oy row (c := 0) (k := 8) (by decide)).append (ih _ _ (by omega))
      fun px py _ _ hlater => ?_).congr fun px py _ _ => (spriteBit_cons row ox oy px py hlen).symm
    have hrow : screenOffset 32 oy py ≠ 0 := fun h0 => by simp [spriteBit_of_row_above ox hlen h0] at hlater
    simp [rowBit, hrow]

/-! ## The instructions -/

/-- Settles O43: the rule replaces the framebuffer by the clear one. -/
theorem clearScreenClearsEveryPixel : Obligations.ClearScreenClearsEveryPixel :=
  ⟨decodeInvertsEncode .cls, fun s => ⟨_, rfl, Framebuffer.pixel_clear, s.pcAdvancedBy_commitPc_seqPc _,
    State.keepsAllBut_of_eq rfl⟩⟩

/-- Settles O44: the draw of the rows is the draw of the sprite's bits, and VF is its flag. -/
theorem drawXorsTheSpriteAndReportsCollision : Obligations.DrawXorsTheSpriteAndReportsCollision := by
  intro x y n s
  refine ⟨decodeInvertsEncode (.drw x y n), exec_completes_and_raises
    ((execDrw_cases s x y n).imp_right fun ⟨h, _, hd, e⟩ => ⟨h, hd ▸ e⟩) Nat.not_le.mpr fun _ => ?_⟩
  have hn := n.isLt
  obtain ⟨hpixel, hhit⟩ := s.fb.drawRows_xorsBits (s.readReg x).toNat (s.readReg y).toNat
    (rows := (List.range n.toNat).map fun k => Memory.read s.mem (s.i.toNat + k)) (by simp; omega)
  refine ⟨hpixel, ?_, ?_, fun r hr => ?_, s.pcAdvancedBy_commitPc_seqPc _, State.keepsAllBut_of_eq rfl⟩
  · rw [State.readReg_writeFlag_commitPc]
    exact (flagByte_eq_one_iff _).trans hhit
  · rw [State.readReg_writeFlag_commitPc]
    exact flagByte_eq_zero_or_one _
  · exact (s.setFramebuffer _).readReg_writeReg_ne hr _

/-- Settles O45: the first draw leaves the sprite and its origin as they were, so the second XORs the same bits. -/
theorem drawingTwiceRestoresTheFramebuffer : Obligations.DrawingTwiceRestoresTheFramebuffer := by
  intro x y n s t u hx hy hfits hfirst hsecond
  obtain ⟨_, hdraws, _⟩ := drawXorsTheSpriteAndReportsCollision x y n s
  obtain ⟨t', hfirst', hpixel, _, _, hregs, _, hkept⟩ := hdraws hfits
  cases hfirst.symm.trans hfirst'
  have hindex : t.i = s.i := hkept .index (by simp)
  have hmem : ∀ a, t.readByte a = s.readByte a := hkept .mem (by simp)
  obtain ⟨_, hdraws, _⟩ := drawXorsTheSpriteAndReportsCollision x y n t
  obtain ⟨u', hsecond', hpixel', hflag, _⟩ := hdraws (hindex ▸ hfits)
  cases hsecond.symm.trans hsecond'
  simp only [hindex, hmem, hregs x hx, hregs y hy] at hpixel' hflag
  refine ⟨Framebuffer.ext_pixel fun px py hpx hpy => ?_, fun px py hpx hpy hclear hbit => ?_⟩
  · rw [hpixel' px py hpx hpy, hpixel px py hpx hpy, Bool.xor_assoc, Bool.xor_self, Bool.xor_false]
  · exact hflag.mpr ⟨px, py, hpx, hpy, by rw [hpixel px py hpx hpy, hclear, Bool.false_xor, hbit], hbit⟩

end Sys2Proof.Machine

/-! # The timers and keys family: the key skips, the key wait and the timer instructions
(spec/44_timers_keys.md R160 to R167) -/

namespace Sys2Proof.Machine

/-! ## Who changes `DT` (spec/10_state.md R31) -/

/-- Only `FX15` changes `DT`. -/
theorem Effect.dt_cases {s u : State} {i : Instr} {n : Nat} (he : Effect s i u n) :
    u.dt = s.dt ∨ ∃ y, i = .ldDtVx y := by
  cases he with
  | delayTimer => exact .inr ⟨_, rfl⟩
  | _ => exact .inl rfl

/-- The key-wait service leaves `DT` alone (spec/44_timers_keys.md R165). -/
theorem State.serviceKeyWait_dt (s : State) : s.serviceKeyWait.dt = s.dt := by
  rcases s.serviceKeyWait_cases with ⟨_, e⟩ | ⟨_, _, e⟩
  · rw [e]
  · rw [e]; rfl

/-- A step that changes `DT` runs an `FX15`. -/
theorem step_dt_cases {s t : State} (h : step s = .next t) (hdt : t.dt ≠ s.dt) :
    s.mode = .running ∧ ∃ y, s.fetchWord = .ok (encode (.ldDtVx y)) := by
  rcases step_next_cases h with ⟨_, rfl⟩ | ⟨_, k, w, _, _, rfl⟩ | ⟨_, _, rfl⟩ | ⟨_, hrun, i, u, n, hi, he, rfl⟩
  · exact absurd rfl hdt
  · exact absurd rfl hdt
  · exact absurd s.serviceKeyWait_dt hdt
  · rcases he.dt_cases with e | ⟨y, rfl⟩
    · exact absurd e hdt
    · exact ⟨hrun, y, hi⟩

/-- A host operation, a `state_mut()` write apart, that changes `DT` is a tick, a reset, a load, or a step at an
`FX15`. -/
theorem hostOp_dt_cases {op : HostOp} {s t : State} (hop : op.notStateMut) (h : op.apply s = .next t)
    (hdt : t.dt ≠ s.dt) :
    op = .tickTimers ∨ op = .reset ∨ (∃ bytes, op = .loadProgram bytes)
      ∨ (op = .step ∧ s.mode = .running ∧ ∃ y, s.fetchWord = .ok (encode (.ldDtVx y))) := by
  cases op with
  | step => exact .inr (.inr (.inr ⟨rfl, step_dt_cases h hdt⟩))
  | tickTimers => exact .inl rfl
  | reset => exact .inr (.inl rfl)
  | loadProgram bytes => exact .inr (.inr (.inl ⟨bytes, rfl⟩))
  | stateMut => exact hop.elim
  | keyDown | keyUp | state | snapshot | present => cases h; exact absurd rfl hdt

/-! ## Readings: the sound, the held key, the parked `PC` -/

/-- The key and the byte are compared as numbers, so the whole byte counts (R160). -/
theorem keyEquals_eq (k : Nibble) (v : Byte) : keyEquals k v = decide (k.toNat = v.toNat) := beq_eq_decide _ _

section Readings
variable (s : State) (x : Reg)

/-- `SOUND_ACTIVE` is "`ST` is not 0" (spec/10_state.md R32). -/
theorem State.soundActive_iff : s.soundActive = true ↔ s.st.toNat ≠ 0 := by
  rw [State.soundActive, decide_eq_true_eq, ne_eq, ne_eq, ← BitVec.toNat_inj]
  rfl

/-- `EX9E` is a skip on "a key is held and is `Vx`" (R161). -/
theorem execSkp_eq :
    execSkp x s = .next (s.commitPc (s.skipPc (decide (s.key.map (·.toNat) = some (s.readReg x).toNat)))) := by
  unfold execSkp
  cases s.key with
  | none => rfl
  | some k => simp [keyEquals_eq]

/-- `EXA1` is a skip on "a key is held and is not `Vx`" (R162). -/
theorem execSknp_eq :
    execSknp x s = .next (s.commitPc (s.skipPc
      (decide (s.key ≠ none ∧ s.key.map (·.toNat) ≠ some (s.readReg x).toNat)))) := by
  unfold execSknp
  cases s.key with
  | none => rfl
  | some k => simp [keyEquals_eq]

/-- Committing the `PC` a state has changes nothing. -/
theorem State.commitPc_self : s.commitPc s.pc.toNat = s :=
  congrArg (fun pc => { s with pc := pc }) (s.commitPc_pc_self rfl)

/-- `FX0A` parks and leaves `PC` where it is (R164). -/
theorem execLdVxK_eq : execLdVxK x s = .next ((s.setWaitReg x).setMode .waitForKey) :=
  congrArg _ (State.commitPc_self ((s.setWaitReg x).setMode .waitForKey))

end Readings

/-! ## The instructions and the key-wait service -/

/-- Settles O46: each rule is one write and `PC + 2`, and of the host operations only a tick, a reset, a load and a step
at an `FX15` change `DT`. -/
theorem timerInstructionsMoveOneByte : Obligations.TimerInstructionsMoveOneByte := by
  intro x s
  refine ⟨⟨decodeInvertsEncode (.ldVxDt x), ?_⟩, ⟨decodeInvertsEncode (.ldDtVx x), ?_⟩,
    ⟨decodeInvertsEncode (.ldStVx x), ?_⟩, fun _ _ => hostOp_dt_cases⟩
  · exact ⟨_, rfl, s.onlyWroteReg_writeReg x s.dt⟩
  · exact ⟨_, rfl, rfl, s.pcAdvancedBy_commitPc_seqPc _, State.keepsAllBut_of_eq rfl⟩
  · exact ⟨_, rfl, rfl, State.soundActive_iff _, s.pcAdvancedBy_commitPc_seqPc _, State.keepsAllBut_of_eq rfl⟩

/-- Settles O14, by the two cases of the service: no key held, or one that fits a byte. -/
theorem keyWaitServiceCompletesTheWait : Obligations.KeyWaitServiceCompletesTheWait := by
  intro s hf hm
  have hstep := step_of_waitForKey hf hm
  rcases s.serviceKeyWait_cases with ⟨hnone, e⟩ | ⟨k, hk, e⟩ <;> rw [e] at hstep
  · exact ⟨fun _ => hstep, fun k hk => absurd (hk.symm.trans hnone) (Option.some_ne_none k)⟩
  · refine ⟨fun hnone => absurd (hk.symm.trans hnone) (Option.some_ne_none k), fun k' hk' => ?_⟩
    cases hk.symm.trans hk'
    refine ⟨_, hstep, ?_, fun r hr => s.readReg_writeReg_ne hr _, rfl, s.pcAdvancedBy_commitPc_seqPc _,
      State.keepsAllBut_of_eq rfl⟩
    calc ((s.writeReg s.waitReg (k.setWidth 8)).readReg s.waitReg).toNat
        = (k.setWidth 8).toNat := by rw [State.readReg_writeReg_self]
      _ = k.toNat := BitVec.toNat_setWidth_of_le (by decide)

/-- Settles O26: each rule is a skip on its comparison with the held key. -/
theorem keySkipsReadTheHeldKey : Obligations.KeySkipsReadTheHeldKey := by
  intro x s
  refine ⟨⟨decodeInvertsEncode (.skp x), ?_⟩, decodeInvertsEncode (.sknp x), ?_⟩
  · exact ⟨_, execSkp_eq s x, s.onlyMovedPc_skip _⟩
  · exact ⟨_, execSknp_eq s x, s.onlyMovedPc_skip _⟩

/-- Settles O47: the rule writes mode and `WAIT_REG`, and its commit changes nothing. -/
theorem keyWaitAlwaysParks : Obligations.KeyWaitAlwaysParks :=
  fun x s => ⟨decodeInvertsEncode (.ldVxK x), _, execLdVxK_eq s x, rfl, rfl, State.keepsAllBut_of_eq rfl⟩

end Sys2Proof.Machine

/-! # The exceptions family: faults, the record that stands, and the host's timers and key (spec/60_exceptions.md R170 to
R187) -/

namespace Sys2Proof.Machine

/-! ## Which faults an instruction raises (R170, R173) -/

/-- The converse of `exec_cases`: under the condition its rule gives, an instruction raises. The conditions of `2NNN` are
ordered, and each excludes that the rule completes. -/
theorem exec_of_raisesWhen {s : State} {i : Instr} {k : FaultKind} (h : raisesWhen s i k) :
    exec i s = .next (s.raise k (some (encode i))) := by
  cases i with
  | ret =>
    obtain ⟨rfl, hnil⟩ := h
    exact execRet_of_nil hnil
  | call nnn =>
    obtain (⟨rfl, hpc⟩ | ⟨rfl, hpc⟩) | ⟨rfl, hpc, hfull⟩ := h
    · exact execCall_of_end nnn (by simp [hpc])
    · exact execCall_of_end nnn (by simp [hpc])
    · exact execCall_of_full nnn hpc hfull
  | drw x y n =>
    obtain ⟨rfl, hend⟩ := h
    exact ((execDrw_cases s x y n).resolve_right fun ⟨hfits, _⟩ => Nat.not_lt.mpr hend hfits).2
  | addI x =>
    obtain ⟨rfl, habove⟩ := h
    exact ((execAddI_cases s x).resolve_right fun ⟨hfits, _⟩ => Nat.not_lt.mpr hfits habove).2
  | ldF x =>
    obtain ⟨rfl, habove⟩ := h
    exact ((execLdF_cases s x).resolve_right fun ⟨hdigit, _⟩ => Nat.not_lt.mpr hdigit habove).2
  | ldB x =>
    obtain ⟨rfl, habove⟩ := h
    exact ((execLdB_cases s x).resolve_right fun ⟨hfits, _⟩ => by omega).2
  | ldMemVx x =>
    obtain ⟨rfl, hend⟩ := h
    exact ((execLdMemVx_cases s x).resolve_right fun ⟨hfits, _⟩ => Nat.not_lt.mpr hend hfits).2
  | ldVxMem x =>
    obtain ⟨rfl, hend⟩ := h
    exact ((execLdVxMem_cases s x).resolve_right fun ⟨hfits, _⟩ => Nat.not_lt.mpr hend hfits).2
  | _ => exact h.elim

/-- Settles O13: under its condition an instruction raises, and one that completes leaves the empty fault slot. -/
theorem instructionsRaiseExactlyTheirFaults : Obligations.InstructionsRaiseExactlyTheirFaults := by
  intro i s t hf h
  refine ⟨fun k hk => ?_, fun r hr => ?_⟩
  · cases h.symm.trans (exec_of_raisesWhen hk)
    rfl
  · rcases exec_next_cases h with ⟨k, hk, rfl⟩ | ⟨u, n, he, rfl⟩
    · cases hr
      exact hk
    · cases (he.fault_eq.trans hf).symm.trans hr

/-! ## What a step that raises leaves (R171) -/

/-- The word of the record that a step from `s` can leave (spec/10_state.md R38): the fetched one, where a word is
fetched. -/
def State.wordForRecord (s : State) : Option Word := if s.mode = .running then s.fetchWord.toOption else none

/-- Outside RUNNING no word is fetched. -/
theorem State.wordForRecord_of_not_running {s : State} (hm : s.mode ≠ .running) : s.wordForRecord = none :=
  if_neg hm

/-- In RUNNING the word is what the fetch gives, if it completes. -/
theorem State.wordForRecord_of_running {s : State} (hm : s.mode = .running) :
    s.wordForRecord = s.fetchWord.toOption :=
  if_pos hm

/-- A step from an unfaulted state leaves no fault, or it is a raise whose record has the word fetched, if any. -/
theorem step_raises_wordForRecord {s t : State} (hf : s.fault = none) (h : step s = .next t) :
    t.fault = none ∨ ∃ k, t = s.raise k s.wordForRecord := by
  rcases step_cases s with
    ⟨⟨r, hr⟩, _⟩ | ⟨_, hm, e⟩ | ⟨_, _, e⟩ | ⟨_, hm, hw, e⟩ | ⟨_, hm, w, hw, hends⟩
  · cases hf.symm.trans hr
  · cases h.symm.trans e
    rw [State.wordForRecord_of_not_running (by rcases hm with hm | hm <;> simp [hm])]
    exact .inr ⟨_, rfl⟩
  · cases h.symm.trans e
    exact .inl (s.serviceKeyWait_fault.trans hf)
  · cases h.symm.trans e
    rw [State.wordForRecord_of_running hm, hw]
    exact .inr ⟨_, rfl⟩
  · rw [State.wordForRecord_of_running hm, hw]
    rcases hends with ⟨_, e⟩ | ⟨i, hd, e⟩
    · cases h.symm.trans e
      exact .inr ⟨_, rfl⟩
    · rcases exec_next_cases (e.symm.trans h) with ⟨k, _, rfl⟩ | ⟨u, n, he, rfl⟩
      · rw [encode_of_decode hd]
        exact .inr ⟨k, rfl⟩
      · exact .inl (he.fault_eq.trans hf)

/-- Settles O11: a fault after the step comes from a raise, which writes the record alone. -/
theorem faultingStepChangesOnlyFault : Obligations.FaultingStepChangesOnlyFault := by
  intro s t r hf h hr
  rcases step_raises_wordForRecord hf h with hnone | ⟨k, rfl⟩
  · cases hnone.symm.trans hr
  · cases hr
    exact ⟨rfl, rfl, rfl⟩

/-! ## Timers and keys (R180, R183) -/

/-- A tick takes 1 from a timer and stops at 0 (R180). -/
@[simp] theorem tickTimer_toNat (b : Byte) : (tickTimer b).toNat = b.toNat - 1 := by
  rw [tickTimer, BitVec.toNat_ofNat]
  omega

/-- A timer at 0 stays there. -/
theorem tickTimer_zero : tickTimer 0#8 = 0#8 := rfl

/-- A timer that is not 0 is one less after a tick. -/
theorem tickTimer_toNat_succ {b : Byte} (hb : b ≠ 0#8) : (tickTimer b).toNat + 1 = b.toNat := by
  rw [tickTimer_toNat]
  bv_omega

/-- Settles O48: a tick is the tick of each timer. -/
theorem tickDecrementsNonZeroTimers : Obligations.TickDecrementsNonZeroTimers := by
  intro s
  refine ⟨s.tickTimers, rfl, fun hdt => ?_, tickTimer_toNat_succ, fun hst => ?_, tickTimer_toNat_succ,
    State.keepsAllBut_of_eq rfl⟩
  · rw [State.tickTimers_dt, hdt, tickTimer_zero]
  · rw [State.tickTimers_st, hst, tickTimer_zero]

/-- Settles O49: each operation replaces the key slot. -/
theorem keyOperationsWriteTheKeySlot : Obligations.KeyOperationsWriteTheKeySlot :=
  fun s k => ⟨⟨s.keyDown k, rfl, rfl, State.keepsAllBut_of_eq rfl⟩, s.keyUp, rfl, rfl, State.keepsAllBut_of_eq rfl⟩

/-! ## The record that stands (R172) -/

/-- A program that fits leaves no fault (spec/70_reset_and_hazards.md R203). -/
theorem State.loadProgram_fault_of_fits (s : State) {bytes : List Byte} (h : bytes.length ≤ 3584) :
    (s.loadProgram bytes).1.fault = none := by
  rcases s.loadProgram_cases bytes with ⟨hlong, _⟩ | ⟨_, e⟩
  · omega
  · rw [e]
    rfl

/-- Settles O12, by what a host operation can do: a faulted step and the operations on timers and keys keep the record, a
reset and a load that fits clear it, and a load too long replaces it. -/
theorem recordedFaultIsSticky : Obligations.RecordedFaultIsSticky := by
  intro s r hf
  refine ⟨step_of_fault hf, fun op t hop h => ?_, rfl, fun _ => s.loadProgram_fault_of_fits, tickTimer_toNat _,
    tickTimer_toNat _, fun _ => rfl, rfl⟩
  rcases hostOp_next_cases hop h with
    ⟨_, h⟩ | ⟨e, _⟩ | ⟨bytes, e, hfits, _⟩ | ⟨bytes, e, _, rfl⟩ | ⟨_, _, _, _, rfl⟩
  · cases h.symm.trans (step_of_fault hf)
    simp [hf]
  · exact ⟨fun _ => .inl e, fun _ => .inl e⟩
  · exact ⟨fun _ => .inr ⟨bytes, e, hfits⟩, fun _ => .inr ⟨bytes, e⟩⟩
  · exact ⟨nofun, fun _ => .inr ⟨bytes, e⟩⟩
  · simp [hf]

/-! ## A jump to itself (R187) -/

/-- A state that is its own next state is where every run from it ends. -/
theorem run_of_step_self {M : Host.Core} {s : M.State} (h : M.step s = .next s) (k : Nat) : M.run k s = .next s := by
  induction k with
  | zero => rfl
  | succ k ih =>
    rw [Host.Core.run, h]
    exact ih

/-- The step at a jump to itself changes nothing: it commits the `PC` there is (spec/40_control.md R104). -/
theorem step_of_self_jump {s : State} (hf : s.fault = none) (hm : s.mode = .running)
    (hw : s.fetchWord = .ok (encode (.jp s.pc))) : step s = .next s :=
  calc step s = exec (.jp s.pc) s := step_of_decode hf hm hw (decodeInvertsEncode _)
    _ = .next (s.commitPc s.pc.toNat) := rfl
    _ = .next s := congrArg _ s.commitPc_self

/-- Settles O58, by induction on the length of the run: its every step is the one at the jump. -/
theorem selfJumpStaysForEver : Obligations.SelfJumpStaysForEver := by
  intro s k hf hm hw
  have hrun := run_of_step_self (M := core) (step_of_self_jump hf hm hw) k
  exact ⟨hrun, s, hrun, hf⟩

end Sys2Proof.Machine

/-! # The reset family: `reset()`, power-on and `load_program` (spec/70_reset_and_hazards.md R200, R201, R203) -/

namespace Sys2Proof.Machine

/-! ## What `reset()` leaves (R200, spec/10_state.md R40) -/

section ResetOp
variable (s : State)

/-- After a reset memory is zero but for the font (spec/10_state.md R33). -/
theorem State.readByte_resetOp (a : Nat) :
    s.resetOp.readByte a = if 0x050 ≤ a ∧ a < 0x0A0 then Config.font (a - 0x050) else 0#8 := rfl

@[simp] theorem State.readReg_resetOp (r : Reg) : s.resetOp.readReg r = 0#8 := by
  simp [State.readReg]

/-- Where `RESET_CLEARS_FB` holds a reset clears the screen (log 3). -/
theorem State.resetOp_fb_of_clears (h : Config.resetClearsFb = true) : s.resetOp.fb = Framebuffer.clear := by
  rw [State.resetOp_fb, if_pos h]

/-- Where `RESET_CLEARS_FB` does not hold a reset keeps the screen (log 3). -/
theorem State.resetOp_fb_of_keeps (h : Config.resetClearsFb = false) : s.resetOp.fb = s.fb := by
  rw [State.resetOp_fb, h, if_neg Bool.false_ne_true]

/-- Whatever `RESET_CLEARS_FB` says, a clear screen is clear after a reset. -/
theorem State.resetOp_fb_of_clear {s : State} (h : s.fb = Framebuffer.clear) : s.resetOp.fb = Framebuffer.clear := by
  rw [State.resetOp_fb, h, ite_self]

end ResetOp

/-- Settles O50: each element reads as its reset column entry, the screen by the two values of `RESET_CLEARS_FB`. -/
theorem resetLeavesTheResetState : Obligations.ResetLeavesTheResetState := by
  intro s
  refine ⟨s.resetOp, rfl, s.readByte_resetOp, s.readReg_resetOp, rfl, rfl, rfl, rfl, rfl, rfl, rfl, rfl, rfl,
    fun hclears px py => ?_, s.resetOp_fb_of_keeps⟩
  rw [s.resetOp_fb_of_clears hclears, Framebuffer.pixel_clear]

/-! ## Power-on (R201) -/

/-- A reset of the machine just powered on is the state the model starts from: its screen is clear already, so
`RESET_CLEARS_FB` makes no difference (log 6). -/
theorem State.resetOp_powerOn : State.powerOn.resetOp = State.reset :=
  congrArg (fun fb => { State.reset with fb := fb }) (State.resetOp_fb_of_clear (s := State.powerOn) rfl)

/-- Settles O51: the two states differ in the mode alone, and a step in INIT raises. -/
theorem powerOnIsTheResetStateInInit : Obligations.PowerOnIsTheResetStateInInit := by
  refine ⟨?_, rfl, rfl, Framebuffer.pixel_clear, State.resetOp_powerOn, _, step_of_no_mode rfl (.inl rfl),
    State.onlyFaulted_raise _ _ _⟩
  rw [State.resetOp_powerOn]
  rfl

/-! ## `load_program` (R203) -/

section LoadProgram
variable (s : State) {bytes : List Byte}

/-- The state a program that fits leaves: a reset, the bytes at 0x200 and `PC` at the first of them. -/
def State.afterLoad (bytes : List Byte) : State :=
  { s.resetOp with mem := Memory.writeBytes [] 0x200 bytes, pc := 0x200#12 }

/-- A load of a program that fits reports no fault. -/
theorem State.loadProgram_of_fits (h : bytes.length ≤ 3584) : s.loadProgram bytes = (s.afterLoad bytes, none) := by
  rcases s.loadProgram_cases bytes with ⟨hlong, _⟩ | ⟨_, e⟩
  · omega
  · exact e

/-- A load of a program too long raises, with no word (decision D28). -/
theorem State.loadProgram_of_long (h : 3584 < bytes.length) :
    s.loadProgram bytes = (s.raise .memoryAccess none, some .memoryAccess) := by
  rcases s.loadProgram_cases bytes with ⟨_, e⟩ | ⟨hfits, _⟩
  · exact e
  · omega

/-- The bytes of a program that fits are read back from 0x200 on. -/
theorem State.readByte_afterLoad_add (h : bytes.length ≤ 3584) {k : Nat} (hk : k < bytes.length) :
    (s.afterLoad bytes).readByte (0x200 + k) = bytes.getD k 0 :=
  Memory.read_writeBytes_add rfl (by omega) hk

/-- Outside the program every byte is as the reset leaves it. -/
theorem State.readByte_afterLoad_of_outside (h : bytes.length ≤ 3584) {a : Nat}
    (ha : a < 0x200 ∨ 0x200 + bytes.length ≤ a) :
    (s.afterLoad bytes).readByte a = s.resetOp.readByte a :=
  Memory.read_writeBytes_of_outside rfl (by omega) (by omega)

end LoadProgram

/-- Settles O52, by the length of the program: one that fits is written over the reset state, one too long raises. -/
theorem loadProgramCopiesToTheLoadOffset : Obligations.LoadProgramCopiesToTheLoadOffset := by
  intro s bytes
  refine ⟨fun hfits => ?_, fun hlong => ?_⟩
  · have hload := s.loadProgram_of_fits hfits
    exact ⟨s.afterLoad bytes, by rw [HostOp.apply, hload], by rw [HostOp.reportedFault, hload],
      fun _ hk => s.readByte_afterLoad_add hfits hk, fun _ ha => s.readByte_afterLoad_of_outside hfits ha, rfl,
      State.keepsAllBut_of_eq rfl⟩
  · have hload := s.loadProgram_of_long hlong
    exact ⟨by rw [HostOp.reportedFault, hload], _, by rw [HostOp.apply, hload], s.onlyFaulted_raise _ _⟩

end Sys2Proof.Machine
